-- ==== Sys2Proof/Config.lean ====
section
/-! DEFINITION. The parameters that no source fixes (00_scope R1). They stand in the machine's state
as a constant field, so every statement about all states is a statement for all parameters. -/

namespace Sys2Proof

/-- The implementation parameters of one engine (00_scope R1; decisions D2, D3, D12). For `outMax`
and `lenSat`, `none` is the spec's infinity. -/
structure Config where
  /-- `IN_MAX`: the largest block length a Start may hand the engine. -/
  inMax : Nat
  /-- `OUT_MAX`: the output capacity in bytes. -/
  outMax : Option Nat
  /-- `LEN_SAT`: the saturation point of the copy-length accumulator. -/
  lenSat : Option Nat
  deriving DecidableEq, Repr

/-- The parameters of `State.reset`. DESIGN CHOICE (log 2), unsafe for a claim about
`State.reset` alone: the spec leaves all three open. -/
def Config.default : Config := { inMax := 4294967296, outMax := none, lenSat := none }

end Sys2Proof
end

