-- ==== Sys2Proof/Word.lean ====
section
/-! DEFINITION. The byte type and the small fixed vocabularies of the command stream: the two block
dialects, the three bytes of a far offset, and the contexts in which a byte is read. -/

namespace Sys2Proof

/-- A byte of the command stream or of the output; bit 0 is the least significant (00_scope R3). -/
abbrev Byte := BitVec 8

/-- The block's dialect, one bit: 0 is TypeZero, 1 is TypeOne (10_state R18). -/
inductive Dialect where
  | typeZero
  | typeOne
  deriving DecidableEq, Repr

/-- The three bytes of the row OFS_FAR_T1, read in `S_OFS`, `S_XHI` and `S_XLO` in this order
(30_encoding R59, 41_resolver R86). `trigger` is the low byte `lo = 0xFF`. -/
inductive FarByte where
  | trigger
  | extHigh (xh : Byte)
  | extLow (xl : Byte)
  deriving DecidableEq, Repr

/-- What decides how a byte is decoded (30_encoding R50): the FSM state that reads it, and where the
rules need them the dialect and the latched parameter field. Literal data bytes are not decoded. -/
inductive Context where
  | header
  | control (d : Dialect)
  | lengthExt (d : Dialect)
  | offset (d : Dialect) (p : BitVec 5)
  | farHigh
  | farLow
  deriving DecidableEq, Repr

end Sys2Proof
end

