-- ==== Sys2Proof/Machine/State.lean ====
section
/-! DEFINITION. The state of one engine (10_state), the reasons a step can stop, and reset. -/

namespace Sys2Proof.Machine

/-- The FSM states (10_state R14). Their numeric encoding is not visible and none is chosen. -/
inductive FsmState where
  /-- `S_IDLE`: no decode in progress since reset. -/
  | idle
  /-- `S_HDR` (`ExpectHeader`): the next byte is the header byte. -/
  | hdr
  /-- `S_CTRL` (`ExpectControlByte`): at a control-byte boundary. -/
  | ctrl
  /-- `S_LIT`: `litRem` literal bytes remain. -/
  | lit
  /-- `S_LEXT`: the next byte is a length-extension byte. -/
  | lext
  /-- `S_OFS`: the next byte is the offset low byte. -/
  | ofs
  /-- `S_XHI`: the next byte is the high byte of the far extension. -/
  | xhi
  /-- `S_XLO`: the next byte is the low byte of the far extension. -/
  | xlo
  /-- `S_COPY`: `cpyRem` bytes remain to be copied. -/
  | copy
  /-- `S_DONE`: the decode succeeded. -/
  | done
  /-- `S_ERR`: the decode failed with `err`. -/
  | err
  deriving DecidableEq, Repr

/-- The four error kinds (00_scope R10, 60_exceptions R115). -/
inductive ErrKind where
  | unsupportedDialect
  | truncatedInput
  | invalidOffset
  | outputOverflow
  deriving DecidableEq, Repr

/-- A byte memory: pairs of an index and its byte, indices strictly rising. An index that is not
listed has no value (10_state R32, log 3). -/
abbrev Memory := List Host.Cell

/-- The whole state of one engine (10_state R14 to R26, 20_memory R34). -/
structure State where
  /-- The machine's parameters (00_scope R1): no engine step and no host move changes them. -/
  cfg : Config
  /-- FSM state (R14). -/
  st : FsmState
  /-- The input cursor, the program counter (R15). -/
  ip : Nat
  /-- `N`, the block length; the host's IN_LEN (R16, R28). -/
  n : Nat
  /-- The output length; the host's OUT_LEN (R17, R28). -/
  olen : Nat
  /-- The block's dialect (R18). -/
  dialect : Dialect
  /-- The latched class field (R19). -/
  cls : BitVec 3
  /-- The latched parameter field (R19). -/
  prm : BitVec 5
  /-- `lit_rem`, literal bytes still to copy, 6 bits, 0..32 (R20). -/
  litRem : BitVec 6
  /-- The copy-length accumulator (R21). -/
  len : Nat
  /-- The raw-offset register (R22). -/
  ofs : BitVec 17
  /-- The high byte of the far extension (R23). -/
  xhi : Byte
  /-- The copy source index (R24). -/
  src : Nat
  /-- `cpy_rem`, bytes still to copy (R25). -/
  cpyRem : Nat
  /-- The error code; the host's ERR (R26, R28). -/
  err : BitVec 3
  /-- The input block, `IN` (20_memory R34). -/
  inMem : Memory
  /-- The output buffer, `OUT` (20_memory R34). -/
  outMem : Memory
  deriving DecidableEq, Repr

/-- Why a step stops. Each is an access or a count that the spec says is never made; no run from
Start reaches one (10_state R33). Stopping is safe (log 3, 10, 11). -/
inductive Fault where
  /-- `InRead a` with `a >= N`; raised by the fetch and by the literal transfer (20_memory R34). Safe. -/
  | inReadBeyondBlock (a : Nat)
  /-- `InRead a` of a byte nothing has written; the fetch and the literal transfer (10_state R32). Safe. -/
  | inReadUnwritten (a : Nat)
  /-- `OutRead a` with `a >= olen`; raised by the copy step (20_memory R34, R49). Safe. -/
  | outReadBeyondOutput (a : Nat)
  /-- `OutRead a` of a byte nothing has written; the copy step (10_state R32). Safe. -/
  | outReadUnwritten (a : Nat)
  /-- `OutWrite a` with `a >= OUT_MAX`; the literal transfer and the copy step (20_memory R34). Safe. -/
  | outWriteBeyondCapacity (a : Nat)
  /-- `lit_rem` or `cpy_rem` counted down from 0; the literal transfer and the copy step
  (00_scope R4: no subtraction goes below zero). Safe. -/
  | countBelowZero
  deriving DecidableEq, Repr

/-- Why an instruction has no meaning. No arm of `exec` uses it. -/
inductive Refusal where
  /-- An instruction of the opcode table that the model does not execute. Safe. -/
  | notModelled (mnemonic : String)
  deriving DecidableEq, Repr

/-- The outcome of a step. -/
abbrev StepOutcome := Host.Outcome State Fault Refusal

/-- The state after reset of an engine with parameters `c` (10_state R32, 70_reset R133): `S_IDLE`
and `err = 0` are the spec's. Every other register is unspecified there and takes the value named
in log 1 (DESIGN CHOICE, unsafe); both memories list nothing. -/
def State.resetWith (c : Config) : State :=
  { cfg := c, st := .idle, ip := 0, n := 0, olen := 0, dialect := .typeZero, cls := 0#3, prm := 0#5,
    litRem := 0#6, len := 0, ofs := 0#17, xhi := 0#8, src := 0, cpyRem := 0, err := 0#3,
    inMem := [], outMem := [] }

/-- The machine right after reset, with the parameters of log 2. -/
def State.reset : State := State.resetWith Config.default

end Sys2Proof.Machine
end

