-- ==== Sys2Proof/Machine/Flags.lean ====
section
/-! DEFINITION. The status the engine has in place of flags. There are no condition flags (10_state
R30): the only status is STATUS, derived from `st`, and the error code. -/

namespace Sys2Proof.Machine

/-- STATUS (10_state R27). -/
inductive Status where
  | idle
  | busy
  | done
  | error
  deriving DecidableEq, Repr

/-- The STATUS of an FSM state (R27). -/
def FsmState.status : FsmState → Status
  | .idle => .idle
  | .hdr | .ctrl | .lit | .lext | .ofs | .xhi | .xlo | .copy => .busy
  | .done => .done
  | .err => .error

/-- The 2-bit STATUS code (R27). -/
def Status.code : Status → BitVec 2
  | .idle => 0#2
  | .busy => 1#2
  | .done => 2#2
  | .error => 3#2

/-- The 3-bit code of an error kind (60_exceptions R115). -/
def ErrKind.code : ErrKind → BitVec 3
  | .unsupportedDialect => 1#3
  | .truncatedInput => 2#3
  | .invalidOffset => 3#3
  | .outputOverflow => 4#3

/-- The kind an error code stands for; 0 is no error, 5 to 7 are never written (R115). -/
def ErrKind.ofCode (c : BitVec 3) : Option ErrKind :=
  if c = 1#3 then some .unsupportedDialect
  else if c = 2#3 then some .truncatedInput
  else if c = 3#3 then some .invalidOffset
  else if c = 4#3 then some .outputOverflow
  else none

/-- STATUS of the engine. -/
def State.status (s : State) : Status := s.st.status

/-- The one completion indication, which a platform may route (60_exceptions R127). -/
def State.isComplete (s : State) : Bool := s.status == .done || s.status == .error

end Sys2Proof.Machine
end

