-- ==== Sys2Proof/Machine/Operands.lean ====
section
/-! DEFINITION. Operand assembly: every operand form of the command stream (30_encoding R60). Every
operand is a zero-extended unsigned field; nothing is sign-extended or scaled. -/

namespace Sys2Proof

/-- The literal length `L = p + 1`, 1..32 (R54, R60). -/
def literalLength (p : BitVec 5) : Nat := p.toNat + 1

/-- The copy length before extension, `c + 2` (R53, 40_classifier R78, 41_resolver R80). -/
def baseCopyLength (c : BitVec 3) : Nat := c.toNat + 2

/-- `rawOffset = (p << 8) | lo` as the 17-bit register holds it (R58, R60, 41_resolver R84). -/
def rawOffset (p : BitVec 5) (lo : Byte) : BitVec 17 := (p.setWidth 17 <<< 8) ||| lo.setWidth 17

/-- The big-endian far extension `(xh << 8) | xl` (20_memory R39, 30_encoding R59). -/
def farExtension (xh xl : Byte) : BitVec 17 := (xh.setWidth 17 <<< 8) ||| xl.setWidth 17

/-- `finalOffset = rawOffset + 1` (41_resolver R87). -/
def finalOffset (ofs : BitVec 17) : Nat := ofs.toNat + 1

/-- The far form's trigger (30_encoding R59): TypeOne, `p = 31` and `lo = 0xFF`. -/
def isFarTrigger (d : Dialect) (p : BitVec 5) (lo : Byte) : Bool :=
  d == .typeOne && p == 31#5 && lo == 0xFF#8

end Sys2Proof
end

