-- ==== Sys2Proof/Machine/Ops.lean ====
section
/-! DEFINITION. The named operations the steps are made of: the two memories, the cursor, the error
entry, literal setup, backreference setup and validation, and what the end of the input does. -/

namespace Sys2Proof

/-- An output of `k` bytes exceeds a capacity; never where the capacity is infinite. -/
def capacityExceeded (outMax : Option Nat) (k : Nat) : Bool :=
  match outMax with
  | none => false
  | some m => decide (m < k)

/-- An output of `k` bytes exceeds `OUT_MAX` (40_classifier R74, 41_resolver R89). -/
def Config.exceeds (c : Config) (k : Nat) : Bool := capacityExceeded c.outMax k

/-- The value the copy-length accumulator takes for a length `x`: `x`, or `LEN_SAT` where that is
smaller (00_scope R1, decision D12; log 12). -/
def Config.saturate (c : Config) (x : Nat) : Nat :=
  match c.lenSat with
  | none => x
  | some k => min x k

/-- The legal parameters: `LEN_SAT` is infinite or above `OUT_MAX` (R1). -/
def Config.legal (c : Config) : Bool :=
  match c.lenSat, c.outMax with
  | none, _ => true
  | some _, none => false
  | some k, some m => decide (m < k)

namespace Machine

/-- The byte at an index, none where nothing has been written. -/
def Memory.read (m : Memory) (a : Nat) : Option Byte :=
  match m with
  | [] => none
  | (k, v) :: rest => if k = a then some v else Memory.read rest a

/-- Writes one byte; every access is one byte wide (20_memory R40). -/
def Memory.write (m : Memory) (a : Nat) (v : Byte) : Memory :=
  match m with
  | [] => [(a, v)]
  | (k, w) :: rest =>
    if k < a then (k, w) :: Memory.write rest a v
    else if k = a then (a, v) :: rest
    else (a, v) :: (k, w) :: rest

/-- Writes a sequence of bytes from an index upwards. -/
def Memory.writeFrom (m : Memory) (a : Nat) (vs : List Byte) : Memory :=
  match vs with
  | [] => m
  | v :: rest => Memory.writeFrom (Memory.write m a v) (a + 1) rest

/-- The canonical form: indices strictly rising. An unlisted index has no value, so no entry can
equal what it reads as. -/
def Memory.wf (m : Memory) : Bool :=
  match m with
  | [] => true
  | [_] => true
  | (a, _) :: (b, w) :: rest => decide (a < b) && Memory.wf ((b, w) :: rest)

/-- `MemRead(IN, a, 1)` (00_scope R6): only indices below `N` exist (20_memory R34). -/
def State.inRead (s : State) (a : Nat) : Except Fault Byte :=
  if a < s.n then
    match s.inMem.read a with
    | some v => .ok v
    | none => .error (.inReadUnwritten a)
  else .error (.inReadBeyondBlock a)

/-- `MemRead(OUT, a, 1)`: only indices below `olen` are read (20_memory R34, R49). -/
def State.outRead (s : State) (a : Nat) : Except Fault Byte :=
  if a < s.olen then
    match s.outMem.read a with
    | some v => .ok v
    | none => .error (.outReadUnwritten a)
  else .error (.outReadBeyondOutput a)

/-- `olen <- olen + 1` with the written memory: the second half of an append. -/
def State.grown (s : State) (m : Memory) : State := { s with outMem := m, olen := s.olen + 1 }

/-- `OutWrite(olen, v); olen <- olen + 1`: the only write of OUT (20_memory R37). -/
def State.outAppend (s : State) (v : Byte) : Except Fault State :=
  if s.cfg.exceeds (s.olen + 1) then .error (.outWriteBeyondCapacity s.olen)
  else .ok (s.grown (s.outMem.write s.olen v))

/-- `goto f` (R6). -/
def State.goto (s : State) (f : FsmState) : State := { s with st := f }

/-- `ip <- ip + 1`: every byte read advances the cursor by one (10_state R15, 40_classifier R69). -/
def State.advance (s : State) : State := { s with ip := s.ip + 1 }

/-- `raise K` (60_exceptions R120): the one error entry. There is no vector, no saved context and no
return (R124); writes made before the raise stand. -/
def State.raise (s : State) (k : ErrKind) : State := { s with err := k.code, st := .err }

/-- The header step's latches (40_classifier R70). -/
def State.latchHeader (s : State) (d : Dialect) (p : BitVec 5) : State :=
  { s with dialect := d, prm := p }

/-- The control step's latches (40_classifier R75). -/
def State.latchControl (s : State) (c : BitVec 3) (p : BitVec 5) : State :=
  { s with cls := c, prm := p }

/-- `len <- x`, through the accumulator's saturation point if it has one (10_state R21). -/
def State.setLen (s : State) (x : Nat) : State := { s with len := s.cfg.saturate x }

/-- `ofs <- v` (10_state R22). -/
def State.setOfs (s : State) (v : BitVec 17) : State := { s with ofs := v }

/-- `xhi <- v` (10_state R23). -/
def State.setXhi (s : State) (v : Byte) : State := { s with xhi := v }

/-- `lit_rem <- L; goto S_LIT`: the end of literal setup. `L` is 1..32, which 6 bits hold (10_state R20). -/
def State.beginLiteral (s : State) (l : Nat) : State :=
  { s with litRem := BitVec.ofNat 6 l, st := .lit }

/-- `src <- olen - dist; cpy_rem <- len; goto S_COPY` (41_resolver R90). -/
def State.beginCopy (s : State) (dist : Nat) : State :=
  { s with src := s.olen - dist, cpyRem := s.len, st := .copy }

/-- `lit_setup(p)` (40_classifier R74): truncation is tested once for the whole segment and before
capacity (60_exceptions R123). -/
def litSetup (p : BitVec 5) (s : State) : State :=
  if s.n - s.ip < literalLength p then s.raise .truncatedInput
  else if s.cfg.exceeds (s.olen + literalLength p) then s.raise .outputOverflow
  else s.beginLiteral (literalLength p)

/-- The header step with a supported dialect tag (40_classifier R70, R71, R72). -/
def headerStep (d : Dialect) (p : BitVec 5) (s : State) : State :=
  litSetup p (s.advance.latchHeader d p)

/-- The header step with an unsupported tag (R73): `dialect` and `prm` are not written. -/
def headerInvalid (s : State) : State := s.advance.raise .unsupportedDialect

/-- The control step of a backreference (R75) with `bref_setup` (R78). -/
def brefStep (c : BitVec 3) (p : BitVec 5) (s : State) : State :=
  ((s.advance.latchControl c p).setLen (baseCopyLength c)).goto (if c = 7#3 then .lext else .ofs)

/-- The length-extension step (41_resolver R83) with the next FSM state. -/
def extendStep (e : Byte) (f : FsmState) (s : State) : State :=
  (s.advance.setLen (s.len + e.toNat)).goto f

/-- `validate` (41_resolver R88 to R90): the offset is tested before the capacity (R123). -/
def validate (s : State) : State :=
  if s.olen < finalOffset s.ofs then s.raise .invalidOffset
  else if s.cfg.exceeds (s.olen + s.len) then s.raise .outputOverflow
  else s.beginCopy (finalOffset s.ofs)

/-- `lit_rem <- lit_rem - 1; if lit_rem = 0: goto S_CTRL` (40_classifier R77). -/
def State.countLiteral (s : State) : State :=
  { s with litRem := s.litRem - 1#6, st := if s.litRem - 1#6 = 0#6 then .ctrl else s.st }

/-- `src <- src + 1; cpy_rem <- cpy_rem - 1; if cpy_rem = 0: goto S_CTRL` (42_copy R92). -/
def State.countCopy (s : State) : State :=
  { s with src := s.src + 1, cpyRem := s.cpyRem - 1,
           st := if s.cpyRem - 1 = 0 then .ctrl else s.st }

/-- What a byte-reading state does when `ip = N`: at a control-byte boundary the decode is done
(43_decode_loop R100), in every other one `TruncatedInput` is raised (60_exceptions R117). -/
def endOfInput (s : State) : State :=
  match s.st with
  | .ctrl => s.goto .done
  | .hdr | .lext | .ofs | .xhi | .xlo => s.raise .truncatedInput
  | .idle | .lit | .copy | .done | .err => s

end Machine

end Sys2Proof
end

