-- ==== Sys2Proof/Machine/Copy.lean ====
section
/-! DEFINITION. The byte-by-byte overlapping-copy unit (42_copy R91 to R97). -/

namespace Sys2Proof.Machine

/-- The copy step of `S_COPY` (R92): one byte, read after every earlier write (20_memory R43). The
faults are of states that `validate` rules out (R95, 10_state R33). -/
def copyStep (s : State) : StepOutcome :=
  if s.cpyRem = 0 then .fault .countBelowZero
  else
    match s.outRead s.src with
    | .error f => .fault f
    | .ok v =>
      match s.outAppend v with
      | .error f => .fault f
      | .ok t => .next t.countCopy

end Sys2Proof.Machine
end

