-- ==== Sys2Proof/Machine/Backref.lean ====
section
/-! DEFINITION. The backreference control bytes (40_classifier R75, R78; 41_resolver R80 to R82). The
rest of a backreference is the rows of Resolver.lean and the copy step of Copy.lean. -/

namespace Sys2Proof.Machine

/-- BREF_C1 (R80): `len <- 3`, offset byte next. -/
def execBrefC1 (p : BitVec 5) (s : State) : StepOutcome := .next (brefStep 1#3 p s)

/-- BREF_C2 (R80): `len <- 4`. -/
def execBrefC2 (p : BitVec 5) (s : State) : StepOutcome := .next (brefStep 2#3 p s)

/-- BREF_C3 (R80): `len <- 5`. -/
def execBrefC3 (p : BitVec 5) (s : State) : StepOutcome := .next (brefStep 3#3 p s)

/-- BREF_C4 (R80): `len <- 6`. -/
def execBrefC4 (p : BitVec 5) (s : State) : StepOutcome := .next (brefStep 4#3 p s)

/-- BREF_C5 (R80): `len <- 7`. -/
def execBrefC5 (p : BitVec 5) (s : State) : StepOutcome := .next (brefStep 5#3 p s)

/-- BREF_C6 (R80): `len <- 8`. -/
def execBrefC6 (p : BitVec 5) (s : State) : StepOutcome := .next (brefStep 6#3 p s)

/-- BREF_C7_T0 (R81): `len <- 9`, one extension byte next. -/
def execBrefC7T0 (p : BitVec 5) (s : State) : StepOutcome := .next (brefStep 7#3 p s)

/-- BREF_C7_T1 (R82): `len <- 9`, an extension chain next. -/
def execBrefC7T1 (p : BitVec 5) (s : State) : StepOutcome := .next (brefStep 7#3 p s)

end Sys2Proof.Machine
end

