-- ==== Sys2Proof/Machine/Header.lean ====
section
/-! DEFINITION. The header rows (40_classifier R70 to R73). -/

namespace Sys2Proof.Machine

/-- HDR_T0 (R71). -/
def execHdrT0 (p : BitVec 5) (s : State) : StepOutcome := .next (headerStep .typeZero p s)

/-- HDR_T1 (R72). -/
def execHdrT1 (p : BitVec 5) (s : State) : StepOutcome := .next (headerStep .typeOne p s)

/-- HDR_INVALID_2 (R73). -/
def execHdrInvalid2 (s : State) : StepOutcome := .next (headerInvalid s)

/-- HDR_INVALID_3 (R73). -/
def execHdrInvalid3 (s : State) : StepOutcome := .next (headerInvalid s)

/-- HDR_INVALID_4 (R73). -/
def execHdrInvalid4 (s : State) : StepOutcome := .next (headerInvalid s)

/-- HDR_INVALID_5 (R73). -/
def execHdrInvalid5 (s : State) : StepOutcome := .next (headerInvalid s)

/-- HDR_INVALID_6 (R73). -/
def execHdrInvalid6 (s : State) : StepOutcome := .next (headerInvalid s)

/-- HDR_INVALID_7 (R73). -/
def execHdrInvalid7 (s : State) : StepOutcome := .next (headerInvalid s)

end Sys2Proof.Machine
end

