-- ==== Sys2Proof/Machine/Literal.lean ====
section
/-! DEFINITION. The literal segment: the row LIT and the literal transfer step (40_classifier R74 to
R77). -/

namespace Sys2Proof.Machine

/-- LIT (R75, R76): the control step of class 0. -/
def execLit (p : BitVec 5) (s : State) : StepOutcome :=
  .next (litSetup p (s.advance.latchControl 0#3 p))

/-- The literal transfer step of `S_LIT` (R77). The faults are of states that literal setup rules
out (10_state R33). -/
def literalStep (s : State) : StepOutcome :=
  if s.litRem = 0#6 then .fault .countBelowZero
  else
    match s.inRead s.ip with
    | .error f => .fault f
    | .ok v =>
      match s.advance.outAppend v with
      | .error f => .fault f
      | .ok t => .next t.countLiteral

end Sys2Proof.Machine
end

