-- ==== Sys2Proof/Machine/Resolver.lean ====
section
/-! DEFINITION. The variable-length offset/length decoder (41_resolver R83 to R90). -/

namespace Sys2Proof.Machine

/-- LEXT_T0 (R81, R83): exactly one extension byte. -/
def execLextT0 (e : Byte) (s : State) : StepOutcome := .next (extendStep e .ofs s)

/-- LEXT_T1_MORE (R82, R83): 255 more, and the chain goes on. -/
def execLextT1More (s : State) : StepOutcome := .next (extendStep 0xFF#8 .lext s)

/-- LEXT_T1_END (R82, R83): the byte that ends the chain is included in the sum. -/
def execLextT1End (e : Byte) (s : State) : StepOutcome := .next (extendStep e .ofs s)

/-- OFS_NEAR (R84, R85): the raw offset is complete and validated in the same step. -/
def execOfsNear (lo : Byte) (s : State) : StepOutcome :=
  .next (validate (s.advance.setOfs (rawOffset s.prm lo)))

/-- The `S_OFS` step of a far offset (R84): the field value 0x1FFF selects the far form. -/
def farTrigger (s : State) : State := (s.advance.setOfs (rawOffset s.prm 0xFF#8)).goto .xhi

/-- The `S_XHI` step (R86). -/
def farHigh (xh : Byte) (s : State) : State := (s.advance.setXhi xh).goto .xlo

/-- The `S_XLO` step (R86): `ofs <- ofs + ((xhi << 8) | xl)`, then `validate`. -/
def farLow (xl : Byte) (s : State) : State :=
  validate (s.advance.setOfs (s.ofs + farExtension s.xhi xl))

/-- OFS_FAR_T1 (R86): the three bytes of a far offset, one a step. -/
def execOfsFarT1 (b : FarByte) (s : State) : StepOutcome :=
  match b with
  | .trigger => .next (farTrigger s)
  | .extHigh xh => .next (farHigh xh s)
  | .extLow xl => .next (farLow xl s)

end Sys2Proof.Machine
end

