-- ==== Sys2Proof/Syntax.lean ====
section
/-! DEFINITION. The instructions: one constructor per row of spec/opcode_table.json. -/

namespace Sys2Proof

/-- The rows of the opcode table. `p` is a parameter field, `e` a length-extension byte, `lo` an
offset low byte. The literal data bytes that follow HDR_T0, HDR_T1 and LIT are not part of the
row: they are moved one by one by the literal transfer step (40_classifier R77). -/
inductive Instr where
  /-- HDR_T0 (R71): header byte, TypeZero, `p + 1` literal bytes follow. -/
  | hdrT0 (p : BitVec 5)
  /-- HDR_T1 (R72): header byte, TypeOne, `p + 1` literal bytes follow. -/
  | hdrT1 (p : BitVec 5)
  /-- HDR_INVALID_2 (R73): unsupported dialect tag 2; `p` is ignored. -/
  | hdrInvalid2 (p : BitVec 5)
  /-- HDR_INVALID_3 (R73). -/
  | hdrInvalid3 (p : BitVec 5)
  /-- HDR_INVALID_4 (R73). -/
  | hdrInvalid4 (p : BitVec 5)
  /-- HDR_INVALID_5 (R73). -/
  | hdrInvalid5 (p : BitVec 5)
  /-- HDR_INVALID_6 (R73). -/
  | hdrInvalid6 (p : BitVec 5)
  /-- HDR_INVALID_7 (R73). -/
  | hdrInvalid7 (p : BitVec 5)
  /-- LIT (R76): class-0 control byte, `p + 1` literal bytes follow. -/
  | lit (p : BitVec 5)
  /-- BREF_C1 (R80): backreference, copy length 3; `p` is offset bits [12:8]. -/
  | brefC1 (p : BitVec 5)
  /-- BREF_C2 (R80): copy length 4. -/
  | brefC2 (p : BitVec 5)
  /-- BREF_C3 (R80): copy length 5. -/
  | brefC3 (p : BitVec 5)
  /-- BREF_C4 (R80): copy length 6. -/
  | brefC4 (p : BitVec 5)
  /-- BREF_C5 (R80): copy length 7. -/
  | brefC5 (p : BitVec 5)
  /-- BREF_C6 (R80): copy length 8. -/
  | brefC6 (p : BitVec 5)
  /-- BREF_C7_T0 (R81): copy length 9 and one extension byte. -/
  | brefC7T0 (p : BitVec 5)
  /-- BREF_C7_T1 (R82): copy length 9 and an extension chain. -/
  | brefC7T1 (p : BitVec 5)
  /-- LEXT_T0 (R81, R83): TypeZero's single length-extension byte, any value. -/
  | lextT0 (e : Byte)
  /-- LEXT_T1_MORE (R82, R83): TypeOne extension byte 0xFF, another follows. -/
  | lextT1More
  /-- LEXT_T1_END (R82, R83): TypeOne extension byte 0x00..0xFE, ends the chain. -/
  | lextT1End (e : Byte)
  /-- OFS_NEAR (R85): the offset low byte of a near offset. -/
  | ofsNear (lo : Byte)
  /-- OFS_FAR_T1 (R86): one of the three bytes of a TypeOne far offset. -/
  | ofsFarT1 (b : FarByte)
  deriving DecidableEq, Repr

end Sys2Proof
end

