-- ==== Sys2Proof/Machine/Dispatch.lean ====
section
/-! DEFINITION. The meaning of every instruction, one arm per constructor. -/

namespace Sys2Proof.Machine

def exec (i : Instr) (s : State) : Host.Outcome State Fault Refusal :=
  match i with
  | .hdrT0 p => Sys2Proof.Machine.execHdrT0 p s
  | .hdrT1 p => Sys2Proof.Machine.execHdrT1 p s
  | .hdrInvalid2 _ => Sys2Proof.Machine.execHdrInvalid2 s
  | .hdrInvalid3 _ => Sys2Proof.Machine.execHdrInvalid3 s
  | .hdrInvalid4 _ => Sys2Proof.Machine.execHdrInvalid4 s
  | .hdrInvalid5 _ => Sys2Proof.Machine.execHdrInvalid5 s
  | .hdrInvalid6 _ => Sys2Proof.Machine.execHdrInvalid6 s
  | .hdrInvalid7 _ => Sys2Proof.Machine.execHdrInvalid7 s
  | .lit p => Sys2Proof.Machine.execLit p s
  | .brefC1 p => Sys2Proof.Machine.execBrefC1 p s
  | .brefC2 p => Sys2Proof.Machine.execBrefC2 p s
  | .brefC3 p => Sys2Proof.Machine.execBrefC3 p s
  | .brefC4 p => Sys2Proof.Machine.execBrefC4 p s
  | .brefC5 p => Sys2Proof.Machine.execBrefC5 p s
  | .brefC6 p => Sys2Proof.Machine.execBrefC6 p s
  | .brefC7T0 p => Sys2Proof.Machine.execBrefC7T0 p s
  | .brefC7T1 p => Sys2Proof.Machine.execBrefC7T1 p s
  | .lextT0 e => Sys2Proof.Machine.execLextT0 e s
  | .lextT1More => Sys2Proof.Machine.execLextT1More s
  | .lextT1End e => Sys2Proof.Machine.execLextT1End e s
  | .ofsNear lo => Sys2Proof.Machine.execOfsNear lo s
  | .ofsFarT1 b => Sys2Proof.Machine.execOfsFarT1 b s

end Sys2Proof.Machine
end

