-- ==== Sys2Proof/WellFormed.lean ====
section
/-! DEFINITION. Which terms of `Instr` the encodings can give, alone and in a context. -/

namespace Sys2Proof

/-- The one restriction on an operand by itself: LEXT_T1_END excludes 0xFF, which is LEXT_T1_MORE
(30_encoding R57, R62). -/
def Instr.wf : Instr → Bool
  | .hdrT0 _ | .hdrT1 _ => true
  | .hdrInvalid2 _ | .hdrInvalid3 _ | .hdrInvalid4 _ => true
  | .hdrInvalid5 _ | .hdrInvalid6 _ | .hdrInvalid7 _ => true
  | .lit _ => true
  | .brefC1 _ | .brefC2 _ | .brefC3 _ | .brefC4 _ | .brefC5 _ | .brefC6 _ => true
  | .brefC7T0 _ | .brefC7T1 _ => true
  | .lextT0 _ | .lextT1More => true
  | .lextT1End e => e != 0xFF#8
  | .ofsNear _ | .ofsFarT1 _ => true

/-- The context of each byte of a far offset (R59). -/
def FarByte.context : FarByte → Context
  | .trigger => .offset .typeOne 31#5
  | .extHigh _ => .farHigh
  | .extLow _ => .farLow

/-- The instruction stands in this context in the opcode map (30_encoding R62), and its operands are
those the context leaves to it. -/
def Instr.wfIn (c : Context) : Instr → Bool
  | .hdrT0 _ | .hdrT1 _ => c == .header
  | .hdrInvalid2 _ | .hdrInvalid3 _ | .hdrInvalid4 _ => c == .header
  | .hdrInvalid5 _ | .hdrInvalid6 _ | .hdrInvalid7 _ => c == .header
  | .lit _ => c == .control .typeZero || c == .control .typeOne
  | .brefC1 _ | .brefC2 _ | .brefC3 _ => c == .control .typeZero || c == .control .typeOne
  | .brefC4 _ | .brefC5 _ | .brefC6 _ => c == .control .typeZero || c == .control .typeOne
  | .brefC7T0 _ => c == .control .typeZero
  | .brefC7T1 _ => c == .control .typeOne
  | .lextT0 _ => c == .lengthExt .typeZero
  | .lextT1More => c == .lengthExt .typeOne
  | .lextT1End e => c == .lengthExt .typeOne && e != 0xFF#8
  | .ofsNear lo =>
    match c with
    | .offset d p => !isFarTrigger d p lo
    | .header | .control _ | .lengthExt _ | .farHigh | .farLow => false
  | .ofsFarT1 b => c == b.context

end Sys2Proof
end

