-- ==== Sys2Proof/Decode.lean ====
section
/-! DEFINITION. The decoder (30_encoding R50 to R63), the encoder written from the same tables, and
the reading of an opcode-table word. -/

namespace Sys2Proof

/-- `b[7:5]`: the dialect tag of a header byte, the class field of a control byte (R51, R52). -/
def classField (b : Byte) : BitVec 3 := b.extractLsb' 5 3

/-- `b[4:0]`: the parameter field (R51, R52). -/
def paramField (b : Byte) : BitVec 5 := b.extractLsb' 0 5

/-- The header context (R51, R62, R63). -/
def decodeHeader (b : Byte) : Instr :=
  match (classField b).toNat with
  | 0 => .hdrT0 (paramField b)
  | 1 => .hdrT1 (paramField b)
  | 2 => .hdrInvalid2 (paramField b)
  | 3 => .hdrInvalid3 (paramField b)
  | 4 => .hdrInvalid4 (paramField b)
  | 5 => .hdrInvalid5 (paramField b)
  | 6 => .hdrInvalid6 (paramField b)
  | _ => .hdrInvalid7 (paramField b)

/-- The control context (R52, R53, R62): class 7 is BREF_C7 of the block's dialect. -/
def decodeControl (d : Dialect) (b : Byte) : Instr :=
  match (classField b).toNat with
  | 0 => .lit (paramField b)
  | 1 => .brefC1 (paramField b)
  | 2 => .brefC2 (paramField b)
  | 3 => .brefC3 (paramField b)
  | 4 => .brefC4 (paramField b)
  | 5 => .brefC5 (paramField b)
  | 6 => .brefC6 (paramField b)
  | _ =>
    match d with
    | .typeZero => .brefC7T0 (paramField b)
    | .typeOne => .brefC7T1 (paramField b)

/-- The length-extension context (R56, R57, R62). -/
def decodeLengthExt (d : Dialect) (b : Byte) : Instr :=
  match d with
  | .typeZero => .lextT0 b
  | .typeOne => if b = 0xFF#8 then .lextT1More else .lextT1End b

/-- The offset-low context (R58, R59, R62). -/
def decodeOffset (d : Dialect) (p : BitVec 5) (b : Byte) : Instr :=
  if isFarTrigger d p b then .ofsFarT1 .trigger else .ofsNear b

/-- The instruction a byte is in a context. Every byte value in every context has a meaning (R64). -/
def decodeByte (c : Context) (b : Byte) : Instr :=
  match c with
  | .header => decodeHeader b
  | .control d => decodeControl d b
  | .lengthExt d => decodeLengthExt d b
  | .offset d p => decodeOffset d p b
  | .farHigh => .ofsFarT1 (.extHigh b)
  | .farLow => .ofsFarT1 (.extLow b)

/-- Why the decoder gives no instruction. -/
inductive DecodeError where
  /-- There is no byte to decode. The engine raises TruncatedInput or ends the decode there
  (43_decode_loop R100); no byte value is rejected (R64). -/
  | noByte
  deriving DecidableEq, Repr

/-- Decodes the first byte of a stream and gives the rest of it. -/
def decode (c : Context) : List Byte → Except DecodeError (Instr × List Byte)
  | [] => .error .noByte
  | b :: rest => .ok (decodeByte c b, rest)

/-- `c` in bits [7:5] and `p` in bits [4:0] (R51, R52). -/
def packByte (c : BitVec 3) (p : BitVec 5) : Byte := c ++ p

/-- A byte of a far offset (R59). -/
def encodeFarByte : FarByte → Byte
  | .trigger => 0xFF#8
  | .extHigh xh => xh
  | .extLow xl => xl

/-- The byte of an instruction (R51 to R59). -/
def encodeByte : Instr → Byte
  | .hdrT0 p => packByte 0#3 p
  | .hdrT1 p => packByte 1#3 p
  | .hdrInvalid2 p => packByte 2#3 p
  | .hdrInvalid3 p => packByte 3#3 p
  | .hdrInvalid4 p => packByte 4#3 p
  | .hdrInvalid5 p => packByte 5#3 p
  | .hdrInvalid6 p => packByte 6#3 p
  | .hdrInvalid7 p => packByte 7#3 p
  | .lit p => packByte 0#3 p
  | .brefC1 p => packByte 1#3 p
  | .brefC2 p => packByte 2#3 p
  | .brefC3 p => packByte 3#3 p
  | .brefC4 p => packByte 4#3 p
  | .brefC5 p => packByte 5#3 p
  | .brefC6 p => packByte 6#3 p
  | .brefC7T0 p => packByte 7#3 p
  | .brefC7T1 p => packByte 7#3 p
  | .lextT0 e => e
  | .lextT1More => 0xFF#8
  | .lextT1End e => e
  | .ofsNear lo => lo
  | .ofsFarT1 b => encodeFarByte b

/-- The words of an instruction: every instruction is one byte of the stream. -/
def encode (i : Instr) : List Byte := [encodeByte i]

/-- The low `k` bytes of `w`, least significant first: byte `j` of the stream is bits
`8j+7 .. 8j` of a table word. -/
def wordBytes : Nat → Nat → List Byte
  | 0, _ => []
  | k + 1, w => BitVec.ofNat 8 w :: wordBytes k (w / 256)

/-- The longest segment with a fixed layout: a header or control byte and 32 literal bytes (R54). -/
def longestSegment : Nat := 33

/-- The stream of a table word: its bytes, then zeros up to `longestSegment` bytes. -/
def tableStream (nbits w : Nat) : List Byte :=
  wordBytes ((nbits + 7) / 8) w ++ List.replicate (longestSegment - (nbits + 7) / 8) 0#8

/-- A table word is three bytes only in the row OFS_FAR_T1. -/
def isFarWord (nbits : Nat) : Bool := nbits == 24

/-- The context in which a bare table word is read (log 6, DESIGN CHOICE): a word carries no context.
A three-byte word can only be OFS_FAR_T1 and is read in that row's context; every other word is
read as the first byte of a block, in the header context. -/
def tableContext (nbits : Nat) : Context :=
  if isFarWord nbits then .offset .typeOne 31#5 else .header

/-- The instruction the decoder reads from a word numbered as spec/opcode_table.json numbers it. -/
def decodeTableWord (nbits w : Nat) : Option Instr :=
  match decode (tableContext nbits) (tableStream nbits w) with
  | .ok (i, _) => some i
  | .error _ => none

end Sys2Proof
end

