-- ==== Sys2Proof/Machine/Fetch.lean ====
section
/-! DEFINITION. What the next step of the engine does, read from `st` (43_decode_loop R98, R99). -/

namespace Sys2Proof.Machine

/-- What the engine finds to do. -/
inductive Fetched where
  /-- No engine step (R99). -/
  | rest
  /-- One literal transfer (40_classifier R77). -/
  | literal
  /-- One copy step (42_copy R92). -/
  | copy
  /-- A byte is due and `ip = N`. -/
  | endOfInput
  /-- The instruction of the byte at `ip` in the state's context. -/
  | instr (i : Instr)
  /-- The byte at `ip` cannot be read. -/
  | fault (f : Fault)
  deriving DecidableEq, Repr

/-- The context in which a byte is decoded (30_encoding R50); none where the state decodes none. -/
def State.context (s : State) : Option Context :=
  match s.st with
  | .hdr => some .header
  | .ctrl => some (.control s.dialect)
  | .lext => some (.lengthExt s.dialect)
  | .ofs => some (.offset s.dialect s.prm)
  | .xhi => some .farHigh
  | .xlo => some .farLow
  | .idle | .lit | .copy | .done | .err => none

/-- Reads and decodes the byte at `ip`, unless the input has ended. -/
def State.fetchByte (s : State) (c : Context) : Fetched :=
  if s.ip = s.n then .endOfInput
  else
    match s.inRead s.ip with
    | .error f => .fault f
    | .ok b => .instr (decodeByte c b)

/-- What the next step does. -/
def State.fetch (s : State) : Fetched :=
  match s.context with
  | some c => s.fetchByte c
  | none =>
    match s.st with
    | .lit => .literal
    | .copy => .copy
    | .idle | .done | .err | .hdr | .ctrl | .lext | .ofs | .xhi | .xlo => .rest

end Sys2Proof.Machine
end

