-- ==== Sys2Proof/Machine/HostInterface.lean ====
section
/-! DEFINITION. The host's moves and observations (43_decode_loop R106 to R113, 70_reset R133, R134,
10_state R27, R28). -/

namespace Sys2Proof.Machine

/-- The writes of Start (R106). OUT and the datapath registers keep their old contents. -/
def State.load (s : State) (blk : List Byte) : State :=
  { s with inMem := s.inMem.writeFrom 0 blk, n := blk.length, ip := 0, olen := 0, err := 0#3,
           st := .hdr }

/-- Start's preconditions (R107): STATUS is not BUSY and the block is not longer than IN_MAX. -/
def State.canStart (s : State) (blk : List Byte) : Bool :=
  s.status != .busy && decide (blk.length ≤ s.cfg.inMax)

/-- Start(blk) (R106, R107): there is no such move when a precondition fails. -/
def State.start (s : State) (blk : List Byte) : Option State :=
  if s.canStart blk then some (s.load blk) else none

/-- Reset (R108, 70_reset R133, R134), in any state: the parameters stay, everything else is as
after reset (log 8). -/
def State.hostReset (s : State) : State := State.resetWith s.cfg

/-- The host's read of STATUS (R109). -/
def State.readStatus (s : State) : BitVec 2 := s.status.code

/-- The host's read of ERR (R109). -/
def State.readErr (s : State) : BitVec 3 := s.err

/-- The host's read of OUT_LEN, in DONE only (R109). -/
def State.readOutLen (s : State) : Option Nat := if s.status = .done then some s.olen else none

/-- The host's read of a byte of OUT, in DONE and below OUT_LEN only (R109). -/
def State.readOut (s : State) (a : Nat) : Option Byte :=
  if s.status = .done ∧ a < s.olen then s.outMem.read a else none

/-- `k` bytes of a memory from an index upwards; none if one of them has no value. -/
def Memory.readFrom (m : Memory) (a : Nat) : Nat → Option (List Byte)
  | 0 => some []
  | k + 1 =>
    match m.read a with
    | none => none
    | some v => (Memory.readFrom m (a + 1) k).map (v :: ·)

/-- The outcome of a decode (R110): `Ok` of the output in DONE, `Err` of the kind in ERROR, none
while there is no outcome. No output is part of an error's outcome (60_exceptions R122). -/
def State.outcome (s : State) : Option (Except ErrKind (List Byte)) :=
  match s.st with
  | .done => (s.outMem.readFrom 0 s.olen).map .ok
  | .err => (ErrKind.ofCode s.err).map .error
  | .idle | .hdr | .ctrl | .lit | .lext | .ofs | .xhi | .xlo | .copy => none

end Sys2Proof.Machine
end

