-- ==== Sys2Proof/Machine/Step.lean ====
section
/-! DEFINITION. One engine step: one transition of the FSM (00_scope R7, 43_decode_loop R98). -/

namespace Sys2Proof.Machine

/-- The step relation. `S_IDLE`, `S_DONE` and `S_ERR` have no engine step and the engine stays there
with all its state (R99, 60_exceptions R132): the state is answered unchanged (log 4). -/
def step (s : State) : Host.Outcome State Fault Refusal :=
  match s.fetch with
  | .rest => .next s
  | .literal => literalStep s
  | .copy => copyStep s
  | .endOfInput => .next (endOfInput s)
  | .instr i => exec i s
  | .fault f => .fault f

/-- The state from which the next step runs a bare opcode-table word (log 6): the word's stream is
loaded as a block, as Start loads one. A three-byte word is OFS_FAR_T1 and also takes that row's
context: `S_OFS` in TypeOne with `prm = 31`. -/
def State.withFetchWord (s : State) (nbits w : Nat) : State :=
  if isFarWord nbits then
    { s.load (tableStream nbits w) with st := .ofs, dialect := .typeOne, prm := 31#5 }
  else s.load (tableStream nbits w)

end Sys2Proof.Machine
end

