-- ==== Sys2Proof/Machine/Assembly.lean ====
section
/-! DEFINITION. Whole segments: their layouts (30_encoding R54 to R59), their lengths (R61), a reader,
the assembly notation (R67) and the pseudo-instructions (R68). The engine does not use this file. -/

namespace Sys2Proof.Machine

/-- A segment in the notation of R67; `far` is the suffix `FAR xh xl`. -/
inductive Segment where
  /-- `HDR0 n, b1..bn` and `HDR1 n, b1..bn`. -/
  | hdr (d : Dialect) (data : List Byte)
  /-- `LIT n, b1..bn`. -/
  | lit (data : List Byte)
  /-- `BREF c, p, lo`. -/
  | bref (c : BitVec 3) (p : BitVec 5) (lo : Byte) (far : Option (Byte × Byte))
  /-- `BREF7 p, e, lo` (TypeZero, `xs = [e]`) and `BREF7 p, [x1..xm], lo` (TypeOne). -/
  | bref7 (p : BitVec 5) (xs : List Byte) (lo : Byte) (far : Option (Byte × Byte))
  deriving DecidableEq, Repr

/-- The header tag of a dialect (R51). -/
def dialectTag : Dialect → BitVec 3
  | .typeZero => 0#3
  | .typeOne => 1#3

/-- The bytes of a far suffix (R59). -/
def farBytes : Option (Byte × Byte) → List Byte
  | none => []
  | some (xh, xl) => [xh, xl]

/-- The bytes of a segment (R54 to R59, R67). -/
def Segment.bytes : Segment → List Byte
  | .hdr d data => packByte (dialectTag d) (BitVec.ofNat 5 (data.length - 1)) :: data
  | .lit data => packByte 0#3 (BitVec.ofNat 5 (data.length - 1)) :: data
  | .bref c p lo far => packByte c p :: lo :: farBytes far
  | .bref7 p xs lo far => packByte 7#3 p :: (xs ++ lo :: farBytes far)

/-- The extension bytes are a whole extension in the dialect (R56, R57). -/
def isChain (d : Dialect) : List Byte → Bool
  | [] => false
  | [x] => d == .typeZero || x != 0xFF#8
  | x :: y :: rest => d == .typeOne && x == 0xFF#8 && isChain d (y :: rest)

/-- The segment has a layout of the dialect (R54 to R59): the far suffix stands exactly where the
offset is the far trigger. -/
def Segment.wf (d : Dialect) : Segment → Bool
  | .hdr d' data => d' == d && decide (1 ≤ data.length) && decide (data.length ≤ 32)
  | .lit data => decide (1 ≤ data.length) && decide (data.length ≤ 32)
  | .bref c p lo far => c != 0#3 && c != 7#3 && far.isSome == isFarTrigger d p lo
  | .bref7 p xs lo far => isChain d xs && far.isSome == isFarTrigger d p lo

/-- The segment is read in the control context. -/
def Segment.isControl : Segment → Bool
  | .hdr _ _ => false
  | .lit _ => true
  | .bref _ _ _ _ => true
  | .bref7 _ _ _ _ => true

/-- The sum of extension bytes. -/
def byteSum : List Byte → Nat
  | [] => 0
  | x :: rest => x.toNat + byteSum rest

/-- `finalCopyLength` of a backreference (R60, 41_resolver R80 to R82); none for a literal. -/
def Segment.copyLength : Segment → Option Nat
  | .hdr _ _ => none
  | .lit _ => none
  | .bref c _ _ _ => some (c.toNat + 2)
  | .bref7 _ xs _ _ => some (7 + byteSum xs + 2)

/-- `finalOffset` of an offset and its far suffix (R60, 41_resolver R87). -/
def offsetDistance (p : BitVec 5) (lo : Byte) (far : Option (Byte × Byte)) : Nat :=
  match far with
  | none => p.toNat * 256 + lo.toNat + 1
  | some (xh, xl) => p.toNat * 256 + lo.toNat + (xh.toNat * 256 + xl.toNat) + 1

/-- `finalOffset` of a backreference; none for a literal. -/
def Segment.distance : Segment → Option Nat
  | .hdr _ _ => none
  | .lit _ => none
  | .bref _ p lo far => some (offsetDistance p lo far)
  | .bref7 p _ lo far => some (offsetDistance p lo far)

/-- Why no segment can be read. -/
inductive SegmentError where
  /-- The bytes end inside the segment. -/
  | truncated
  /-- The header tag is 2..7 (R63). -/
  | unsupportedDialect
  deriving DecidableEq, Repr

/-- Reads the `p + 1` data bytes of a literal segment (R54). -/
def readData (p : BitVec 5) (bs : List Byte) : Except SegmentError (List Byte × List Byte) :=
  if bs.length < literalLength p then .error .truncated
  else .ok (bs.take (literalLength p), bs.drop (literalLength p))

/-- Reads the extension bytes of a class-7 backreference (R56, R57). -/
def readChain (d : Dialect) : List Byte → Except SegmentError (List Byte × List Byte)
  | [] => .error .truncated
  | x :: rest =>
    if d = .typeZero ∨ x ≠ 0xFF#8 then .ok ([x], rest)
    else
      match readChain d rest with
      | .error e => .error e
      | .ok (xs, left) => .ok (x :: xs, left)

/-- Reads the offset bytes of a backreference (R58, R59). -/
def readOffset (d : Dialect) (p : BitVec 5) :
    List Byte → Except SegmentError (Byte × Option (Byte × Byte) × List Byte)
  | [] => .error .truncated
  | lo :: rest =>
    if isFarTrigger d p lo then
      match rest with
      | xh :: xl :: left => .ok (lo, some (xh, xl), left)
      | [] | [_] => .error .truncated
    else .ok (lo, none, rest)

/-- Reads one segment in the control context (R61). -/
def readSegment (d : Dialect) : List Byte → Except SegmentError (Segment × List Byte)
  | [] => .error .truncated
  | b :: rest =>
    if classField b = 0#3 then
      match readData (paramField b) rest with
      | .error e => .error e
      | .ok (data, left) => .ok (.lit data, left)
    else if classField b = 7#3 then
      match readChain d rest with
      | .error e => .error e
      | .ok (xs, rest1) =>
        match readOffset d (paramField b) rest1 with
        | .error e => .error e
        | .ok (lo, far, left) => .ok (.bref7 (paramField b) xs lo far, left)
    else
      match readOffset d (paramField b) rest with
      | .error e => .error e
      | .ok (lo, far, left) => .ok (.bref (classField b) (paramField b) lo far, left)

/-- Reads the header segment of a block (R51, R54, R63). -/
def readHeader : List Byte → Except SegmentError (Segment × List Byte)
  | [] => .error .truncated
  | b :: rest =>
    if classField b = 0#3 ∨ classField b = 1#3 then
      match readData (paramField b) rest with
      | .error e => .error e
      | .ok (data, left) =>
        .ok (.hdr (if classField b = 0#3 then .typeZero else .typeOne) data, left)
    else .error .unsupportedDialect

/-- The offset fields `p`, `lo` and the far suffix for a raw offset `r` (R68): none where the dialect
has no encoding. -/
def offsetFields (d : Dialect) (r : Nat) : Option (BitVec 5 × Byte × Option (Byte × Byte)) :=
  if r < 0x1FFF ∨ (d = .typeZero ∧ r = 0x1FFF) then
    some (BitVec.ofNat 5 (r / 256), BitVec.ofNat 8 r, none)
  else if d = .typeOne ∧ r - 0x1FFF ≤ 0xFFFF then
    some (31#5, 0xFF#8, some (BitVec.ofNat 8 ((r - 0x1FFF) / 256), BitVec.ofNat 8 (r - 0x1FFF)))
  else none

/-- The extension bytes for a copy length `l >= 9` (R68). -/
def chainFor (d : Dialect) (l : Nat) : Option (List Byte) :=
  match d with
  | .typeZero => if l ≤ 264 then some [BitVec.ofNat 8 (l - 9)] else none
  | .typeOne => some (List.replicate ((l - 9) / 255) 0xFF#8 ++ [BitVec.ofNat 8 ((l - 9) % 255)])

/-- `COPY L, D` (R68): none where it has no encoding in the dialect. -/
def copySegment (d : Dialect) (l dist : Nat) : Option Segment :=
  if l < 3 ∨ dist < 1 then none
  else
    match offsetFields d (dist - 1) with
    | none => none
    | some (p, lo, far) =>
      if l ≤ 8 then some (.bref (BitVec.ofNat 3 (l - 2)) p lo far)
      else (chainFor d l).map (fun xs => .bref7 p xs lo far)

/-- `LITS s` (R68) with as many `LIT 32` segments as `fuel` allows. -/
def litsWithFuel : Nat → List Byte → List Segment
  | 0, _ => []
  | _ + 1, [] => []
  | fuel + 1, b :: rest =>
    .lit ((b :: rest).take 32) :: litsWithFuel fuel ((b :: rest).drop 32)

/-- `LITS s` (R68): `LIT 32` segments followed by one shorter LIT. -/
def litSegments (s : List Byte) : List Segment := litsWithFuel s.length s

/-- The data bytes of a literal segment. -/
def Segment.data : Segment → List Byte
  | .hdr _ data => data
  | .lit data => data
  | .bref _ _ _ _ => []
  | .bref7 _ _ _ _ => []

end Sys2Proof.Machine
end

