-- ==== Sys2Proof/Machine/Reference.lean ====
section
/-! DEFINITION. The reference function `decompress` (43_decode_loop R102), written as one loop over the
bytes that remain (`rest` is `blk[ip ..]`) with exact arithmetic on naturals. It shares with the
engine the field extraction and the capacity test only. The loop runs on a fuel that R104's
argument shows is enough, and `none` means that it ran out (log 15). -/

namespace Sys2Proof.Machine

/-- `literal(L)`: the bytes left and the output after it, or its error. -/
def refLiteral (cap : Option Nat) (l : Nat) (rest out : List Byte) :
    Except ErrKind (List Byte × List Byte) :=
  if rest.length < l then .error .truncatedInput
  else if capacityExceeded cap (out.length + l) then .error .outputOverflow
  else .ok (rest.drop l, out ++ rest.take l)

/-- The `repeat .. until dl = TypeZero or e != 0xFF` loop: adds extension bytes to `l`. -/
def refChain (d : Dialect) : List Byte → Nat → Except ErrKind (Nat × List Byte)
  | [], _ => .error .truncatedInput
  | e :: rest, l =>
    if d = .typeZero ∨ e ≠ 0xFF#8 then .ok (l + e.toNat, rest) else refChain d rest (l + e.toNat)

/-- The copy length and the bytes left after the extension bytes. -/
def refLength (d : Dialect) (c : BitVec 3) (rest : List Byte) : Except ErrKind (Nat × List Byte) :=
  if c = 7#3 then refChain d rest (c.toNat + 2) else .ok (c.toNat + 2, rest)

/-- The final offset `d` and the bytes left after the offset bytes. -/
def refOffset (d : Dialect) (p : BitVec 5) : List Byte → Except ErrKind (Nat × List Byte)
  | [] => .error .truncatedInput
  | lo :: rest =>
    if d = .typeOne ∧ p.toNat * 256 + lo.toNat = 0x1FFF then
      match rest with
      | xh :: xl :: left => .ok (0x1FFF + (xh.toNat * 256 + xl.toNat) + 1, left)
      | [] | [_] => .error .truncatedInput
    else .ok (p.toNat * 256 + lo.toNat + 1, rest)

/-- `for i in 0 .. L-1: out <- out ++ [out[s + i]]`, reads seeing earlier appends. -/
def refCopy (out : List Byte) (s : Nat) : Nat → Option (List Byte)
  | 0 => some out
  | k + 1 =>
    match out[s]? with
    | none => none
    | some v => refCopy (out ++ [v]) (s + 1) k

/-- The copy of a backreference whose length and distance are known, with its two checks. -/
def refAppend (cap : Option Nat) (l dist : Nat) (out : List Byte) : Option (Except ErrKind (List Byte)) :=
  if out.length < dist then some (.error .invalidOffset)
  else if capacityExceeded cap (out.length + l) then some (.error .outputOverflow)
  else (refCopy out (out.length - dist) l).map .ok

/-- One backreference after its control byte: the bytes left and the output after it. -/
def refBackref (cap : Option Nat) (d : Dialect) (c : BitVec 3) (p : BitVec 5) (rest out : List Byte) :
    Option (Except ErrKind (List Byte × List Byte)) :=
  match refLength d c rest with
  | .error e => some (.error e)
  | .ok (l, rest1) =>
    match refOffset d p rest1 with
    | .error e => some (.error e)
    | .ok (dist, rest2) =>
      match refAppend cap l dist out with
      | none => none
      | some (.error e) => some (.error e)
      | some (.ok out1) => some (.ok (rest2, out1))

/-- The segment that starts with control byte `b`. -/
def refSegment (cap : Option Nat) (d : Dialect) (b : Byte) (rest out : List Byte) :
    Option (Except ErrKind (List Byte × List Byte)) :=
  if classField b = 0#3 then some (refLiteral cap ((paramField b).toNat + 1) rest out)
  else refBackref cap d (classField b) (paramField b) rest out

/-- The loop of R102. -/
def refLoop (cap : Option Nat) (d : Dialect) : Nat → List Byte → List Byte → Option (Except ErrKind (List Byte))
  | 0, _, _ => none
  | _ + 1, [], out => some (.ok out)
  | fuel + 1, b :: rest, out =>
    match refSegment cap d b rest out with
    | none => none
    | some (.error e) => some (.error e)
    | some (.ok (rest1, out1)) => refLoop cap d fuel rest1 out1

/-- The dialect of a header byte's tag; none where it is unsupported (30_encoding R51). -/
def dialectOfTag (h : BitVec 3) : Option Dialect :=
  if h = 0#3 then some .typeZero else if h = 1#3 then some .typeOne else none

/-- `decompress(blk)` for an output capacity (R102). -/
def decompress (cap : Option Nat) (blk : List Byte) : Option (Except ErrKind (List Byte)) :=
  match blk with
  | [] => some (.error .truncatedInput)
  | b :: rest =>
    match dialectOfTag (classField b) with
    | none => some (.error .unsupportedDialect)
    | some d =>
      match refLiteral cap ((paramField b).toNat + 1) rest [] with
      | .error e => some (.error e)
      | .ok (rest1, out) => refLoop cap d (rest1.length + 1) rest1 out

end Sys2Proof.Machine
end

