-- ==== Sys2Proof/Machine/System.lean ====
section
/-! DEFINITION. The two agents (10_state R13) as one labelled move, and several engines side by side
(60_exceptions R131). -/

namespace Sys2Proof.Machine

/-- A move of one of the two agents. -/
inductive Move where
  /-- The engine takes a step (43_decode_loop R98). -/
  | engine
  /-- The host issues Start (R106). -/
  | start (blk : List Byte)
  /-- The host issues Reset (R108). -/
  | reset
  deriving DecidableEq, Repr

/-- The state after a move; none where there is no such move: the step stops, or a duty of the host
is broken (R107, R111). -/
def State.move (s : State) (m : Move) : Option State :=
  match m with
  | .engine =>
    match step s with
    | .next t => some t
    | .fault _ => none
    | .refused _ => none
  | .start blk => s.start blk
  | .reset => some s.hostReset

/-- Several engines (R131). -/
abbrev System := List State

/-- A move on engine `k`; none where there is no such engine or no such move. -/
def System.move (sys : System) (k : Nat) (m : Move) : Option System :=
  match sys[k]? with
  | none => none
  | some s => (s.move m).map (fun t => sys.set k t)

end Sys2Proof.Machine
end

