-- ==== Sys2Proof/Safety.lean ====
section
/-! DEFINITION. Runs of the engine, reachable states, and the invariant of 10_state R33 with what it
takes to be kept by every step. -/

namespace Sys2Proof.Machine

/-- `k` engine steps. -/
def run (k : Nat) (s : State) : StepOutcome :=
  match k with
  | 0 => .next s
  | k + 1 =>
    match step s with
    | .next t => run k t
    | .fault f => .fault f
    | .refused r => .refused r

/-- `k` more bytes of output fit the capacity: `olen + k <= OUT_MAX`. -/
def State.Fits (s : State) (k : Nat) : Prop := ∀ m, s.cfg.outMax = some m → s.olen + k ≤ m

/-- The states in which a run ends (43_decode_loop R114). -/
def State.isTerminal (s : State) : Bool := s.st == .done || s.st == .err

/-- The states some sequence of moves of the two agents reaches from reset, for legal parameters. -/
inductive Reachable : State → Prop where
  | reset (c : Config) (h : c.legal = true) : Reachable (State.resetWith c)
  | move (s t : State) (m : Move) (h : Reachable s) (hm : s.move m = some t) : Reachable t

/-- The state is inside the resolver: the copy length is under construction. -/
def FsmState.inResolver : FsmState → Bool
  | .lext | .ofs | .xhi | .xlo => true
  | .idle | .hdr | .ctrl | .lit | .copy | .done | .err => false

/-- The output bytes that the current segment is already known to append. -/
def State.pending (s : State) : Nat :=
  match s.st with
  | .lit => s.litRem.toNat
  | .copy => s.cpyRem
  | .lext | .ofs | .xhi | .xlo => s.len
  | .idle | .hdr | .ctrl | .done | .err => 0

/-- The invariant of every reachable state (10_state R33, 43_decode_loop R105). -/
structure Inv (s : State) : Prop where
  /-- The parameters are legal (00_scope R1). -/
  legal : s.cfg.legal = true
  /-- Both memories are in canonical form. -/
  inWf : s.inMem.wf = true
  outWf : s.outMem.wf = true
  /-- The block's bytes are in IN (43_decode_loop R106). -/
  inWritten : ∀ a, a < s.n → (s.inMem.read a).isSome = true
  /-- Every byte below `olen` has been written (20_memory R43). -/
  outWritten : ∀ a, a < s.olen → (s.outMem.read a).isSome = true
  /-- `0 <= ip <= N <= IN_MAX`. -/
  cursor : s.ip ≤ s.n
  blockFits : s.n ≤ s.cfg.inMax
  /-- `olen <= OUT_MAX`. -/
  outputFits : s.cfg.exceeds s.olen = false
  /-- A decode starts at index 0 with no output (43_decode_loop R106, 70_reset R135). -/
  atHeader : s.st = .hdr → s.ip = 0 ∧ s.olen = 0
  /-- The header has produced a byte (41_resolver R88). -/
  afterHeader : s.st = .ctrl ∨ s.st.inResolver = true ∨ s.st = .copy ∨ s.st = .done → 1 ≤ s.olen
  /-- In `S_LIT`. -/
  literal : s.st = .lit → 1 ≤ s.litRem.toNat ∧ s.litRem.toNat ≤ 32 ∧ s.ip + s.litRem.toNat ≤ s.n ∧
    s.cfg.exceeds (s.olen + s.litRem.toNat) = false
  /-- In `S_COPY`. -/
  copying : s.st = .copy → 1 ≤ s.cpyRem ∧ s.src < s.olen ∧ s.cfg.exceeds (s.olen + s.cpyRem) = false
  /-- In `S_LEXT`. -/
  extending : s.st = .lext → s.cls = 7#3
  /-- In the resolver the class is 1..7 and the length is at least 3, up to saturation. -/
  resolving : s.st.inResolver = true → s.cls ≠ 0#3 ∧ s.cfg.saturate 3 ≤ s.len
  /-- In `S_XHI` and `S_XLO`. -/
  far : s.st = .xhi ∨ s.st = .xlo → s.dialect = .typeOne ∧ s.ofs = 0x1FFF#17
  /-- A decode is done at the end of the block only (30_encoding R66). -/
  finished : s.st = .done → s.ip = s.n
  /-- `err` is 0 except in `S_ERR`, where it is the code of a kind (10_state R26). -/
  noError : s.st ≠ .err → s.err = 0#3
  errorKind : s.st = .err → (ErrKind.ofCode s.err).isSome = true
  /-- Each input byte stands for at most 255 output bytes (43_decode_loop R105). -/
  outputBound : s.olen + s.pending ≤ 255 * s.ip

end Sys2Proof.Machine
end

