-- ==== Sys2Proof/Certificates/Slice0/Obligations.lean ====
section
/-! DEFINITION. The statements about the model. Each docstring names the rules of spec/ it rests on;
where a clause rests on the model's own choice it names the log entry. -/

open Sys2Proof Sys2Proof.Machine

/-! ### Encoding -/

/-- 30_encoding R51 to R59: decoding an encoded instruction in a context where it may stand gives it
back, with every operand, and leaves the bytes after it. -/
def Obligations.DecodeOfEncodeGivesTheInstruction : Prop :=
  ∀ (c : Context) (i : Instr) (rest : List Byte), i.wfIn c = true →
    decode c (encode i ++ rest) = .ok (i, rest)

/-- 30_encoding R62, R64: every byte in every context is an instruction of that context, and encoding
it gives the byte back. -/
def Obligations.EveryByteIsAnInstructionOfItsContext : Prop :=
  ∀ (c : Context) (b : Byte), (decodeByte c b).wfIn c = true ∧ (decodeByte c b).wf = true ∧
    encode (decodeByte c b) = [b]

/-- Words written out bit by bit from 30_encoding R51 to R59, one or more of each format. -/
def Obligations.WrittenOutWordsDecode : Prop :=
  decodeByte .header 0b00000101#8 = .hdrT0 5#5 ∧
  decodeByte .header 0b00111111#8 = .hdrT1 31#5 ∧
  decodeByte .header 0b01000001#8 = .hdrInvalid2 1#5 ∧
  decodeByte (.control .typeZero) 0b00011110#8 = .lit 30#5 ∧
  decodeByte (.control .typeOne) 0b11000101#8 = .brefC6 5#5 ∧
  decodeByte (.control .typeZero) 0b11100010#8 = .brefC7T0 2#5 ∧
  decodeByte (.control .typeOne) 0b11100010#8 = .brefC7T1 2#5 ∧
  decodeByte (.lengthExt .typeZero) 0b11111111#8 = .lextT0 255#8 ∧
  decodeByte (.lengthExt .typeOne) 0b11111111#8 = .lextT1More ∧
  decodeByte (.lengthExt .typeOne) 0b11111110#8 = .lextT1End 254#8 ∧
  decodeByte (.offset .typeZero 31#5) 0b11111111#8 = .ofsNear 255#8 ∧
  decodeByte (.offset .typeOne 31#5) 0b11111111#8 = .ofsFarT1 .trigger ∧
  decodeByte .farHigh 0b00000001#8 = .ofsFarT1 (.extHigh 1#8) ∧
  decodeByte .farLow 0b10000000#8 = .ofsFarT1 (.extLow 128#8)

/-- 30_encoding R62, the complete map by context, by the ranges of byte values; an invalid header byte
raises `UnsupportedDialect`. In the literal-data context no byte is decoded. -/
def Obligations.OpcodeMapByContext : Prop :=
  ∀ b : Byte,
    (b.toNat ≤ 0x1F → decodeByte .header b = .hdrT0 (b.extractLsb' 0 5)) ∧
    (0x20 ≤ b.toNat → b.toNat ≤ 0x3F → decodeByte .header b = .hdrT1 (b.extractLsb' 0 5)) ∧
    (0x40 ≤ b.toNat → decodeByte .header b ∈
      [.hdrInvalid2 (b.extractLsb' 0 5), .hdrInvalid3 (b.extractLsb' 0 5),
       .hdrInvalid4 (b.extractLsb' 0 5), .hdrInvalid5 (b.extractLsb' 0 5),
       .hdrInvalid6 (b.extractLsb' 0 5), .hdrInvalid7 (b.extractLsb' 0 5)] ∧
      ∀ s : State, exec (decodeByte .header b) s = .next { s with ip := s.ip + 1, err := 1#3, st := .err }) ∧
    (∀ d : Dialect,
      (b.toNat ≤ 0x1F → decodeByte (.control d) b = .lit (b.extractLsb' 0 5)) ∧
      (0x20 ≤ b.toNat → b.toNat ≤ 0x3F → decodeByte (.control d) b = .brefC1 (b.extractLsb' 0 5)) ∧
      (0x40 ≤ b.toNat → b.toNat ≤ 0x5F → decodeByte (.control d) b = .brefC2 (b.extractLsb' 0 5)) ∧
      (0x60 ≤ b.toNat → b.toNat ≤ 0x7F → decodeByte (.control d) b = .brefC3 (b.extractLsb' 0 5)) ∧
      (0x80 ≤ b.toNat → b.toNat ≤ 0x9F → decodeByte (.control d) b = .brefC4 (b.extractLsb' 0 5)) ∧
      (0xA0 ≤ b.toNat → b.toNat ≤ 0xBF → decodeByte (.control d) b = .brefC5 (b.extractLsb' 0 5)) ∧
      (0xC0 ≤ b.toNat → b.toNat ≤ 0xDF → decodeByte (.control d) b = .brefC6 (b.extractLsb' 0 5))) ∧
    (0xE0 ≤ b.toNat →
      decodeByte (.control .typeZero) b = .brefC7T0 (b.extractLsb' 0 5) ∧
      decodeByte (.control .typeOne) b = .brefC7T1 (b.extractLsb' 0 5)) ∧
    (∀ s : State, s.st = .lit → s.context = none) ∧
    decodeByte (.lengthExt .typeZero) b = .lextT0 b ∧
    (b = 0xFF#8 → decodeByte (.lengthExt .typeOne) b = .lextT1More) ∧
    (b ≠ 0xFF#8 → decodeByte (.lengthExt .typeOne) b = .lextT1End b) ∧
    (∀ (d : Dialect) (p : BitVec 5),
      (d = .typeOne ∧ p = 31#5 ∧ b = 0xFF#8 → decodeByte (.offset d p) b = .ofsFarT1 .trigger) ∧
      (¬(d = .typeOne ∧ p = 31#5 ∧ b = 0xFF#8) → decodeByte (.offset d p) b = .ofsNear b)) ∧
    decodeByte .farHigh b = .ofsFarT1 (.extHigh b) ∧
    decodeByte .farLow b = .ofsFarT1 (.extLow b)

/-- 30_encoding R54 to R59, R61: reading the bytes of a well-formed segment of a dialect gives the
segment back and stops exactly at its end, whatever follows it. -/
def Obligations.SegmentBytesReadBack : Prop :=
  ∀ (d : Dialect) (seg : Segment) (rest : List Byte), seg.wf d = true →
    (seg.isControl = true → readSegment d (seg.bytes ++ rest) = .ok (seg, rest)) ∧
    (seg.isControl = false → readHeader (seg.bytes ++ rest) = .ok (seg, rest))

/-- 00_scope R2, 30_encoding R60: the ranges of copy lengths and distances. -/
def Obligations.SegmentOperandRanges : Prop :=
  ∀ (d : Dialect) (seg : Segment), seg.wf d = true →
    (∀ l, seg.copyLength = some l → 3 ≤ l ∧ (d = .typeZero → l ≤ 264)) ∧
    (∀ k, seg.distance = some k → 1 ≤ k ∧ (d = .typeZero → k ≤ 8192) ∧ (d = .typeOne → k ≤ 73727)) ∧
    (seg.copyLength = none → 1 ≤ seg.data.length ∧ seg.data.length ≤ 32)

/-- 30_encoding R68, COPY: the expansion is a well-formed segment of exactly that length and
distance, and it exists for every length and distance the dialect can encode. -/
def Obligations.CopyPseudoInstructionExpands : Prop :=
  ∀ (d : Dialect) (l dist : Nat),
    (∀ seg, copySegment d l dist = some seg →
      seg.wf d = true ∧ seg.isControl = true ∧ seg.copyLength = some l ∧ seg.distance = some dist) ∧
    (3 ≤ l → 1 ≤ dist → (d = .typeZero → l ≤ 264 ∧ dist ≤ 8192) → (d = .typeOne → dist ≤ 73727) →
      (copySegment d l dist).isSome = true) ∧
    (d = .typeZero → 8192 < dist → copySegment d l dist = none)

/-- 30_encoding R68, LITS: the expansion's data is the string, every segment is a well-formed LIT,
and all but the last hold 32 bytes. That the empty string gives no segment, and that a length which is
a multiple of 32 ends with a LIT of 32, is the model's choice (log 17, DEDUCED). -/
def Obligations.LitsPseudoInstructionExpands : Prop :=
  ∀ (d : Dialect) (str : List Byte),
    (litSegments str).flatMap Segment.data = str ∧
    (∀ seg, seg ∈ litSegments str → seg.wf d = true ∧ ∃ data, seg = .lit data) ∧
    (∀ k seg, k + 1 < (litSegments str).length → (litSegments str)[k]? = some seg →
      seg.data.length = 32)

/-- 30_encoding R59, 41_resolver R84: the far form's byte test is the test `rawOffset = 0x1FFF`. -/
def Obligations.FarTriggerIsRawOffset1FFF : Prop :=
  ∀ (d : Dialect) (p : BitVec 5) (lo : Byte),
    isFarTrigger d p lo = true ↔ d = .typeOne ∧ rawOffset p lo = 0x1FFF#17

/-- 41_resolver R87: `finalOffset = rawOffset + 1` is at least 1, so the byte read lies below the byte
written; its range in each dialect. The near TypeOne form is the one that is not the far trigger. -/
def Obligations.FinalOffsetRange : Prop :=
  (∀ (ofs : BitVec 17) (olen : Nat), finalOffset ofs = ofs.toNat + 1 ∧ 1 ≤ finalOffset ofs ∧
    (finalOffset ofs ≤ olen → olen - finalOffset ofs < olen)) ∧
  (∀ (p : BitVec 5) (lo : Byte), finalOffset (rawOffset p lo) = p.toNat * 256 + lo.toNat + 1 ∧
    finalOffset (rawOffset p lo) ≤ 8192 ∧
    (isFarTrigger .typeOne p lo = false → finalOffset (rawOffset p lo) ≤ 8191)) ∧
  (∀ xh xl : Byte,
    finalOffset (0x1FFF#17 + farExtension xh xl) = 0x1FFF + (xh.toNat * 256 + xl.toNat) + 1 ∧
    finalOffset (0x1FFF#17 + farExtension xh xl) ≤ 73727)

/-! ### The step -/

/-- 43_decode_loop R98, 30_encoding R50: where a byte is due and present, a step is the meaning of the
instruction that the byte decodes to in the context of the FSM state. The meaning itself moves the
cursor past the byte; the step adds nothing. -/
def Obligations.StepRunsTheDecodedInstruction : Prop :=
  ∀ (s : State) (c : Context) (b : Byte) (i : Instr) (rest : List Byte),
    (s.st = .hdr ∧ c = .header ∨ s.st = .ctrl ∧ c = .control s.dialect ∨
     s.st = .lext ∧ c = .lengthExt s.dialect ∨ s.st = .ofs ∧ c = .offset s.dialect s.prm ∨
     s.st = .xhi ∧ c = .farHigh ∨ s.st = .xlo ∧ c = .farLow) →
    s.ip < s.n → s.inMem.read s.ip = some b → decode c [b] = .ok (i, rest) →
    step s = exec i s

/-- 43_decode_loop R99, 60_exceptions R132: in `S_IDLE`, `S_DONE` and `S_ERR` the engine stays as it
is. That "no engine step" is rendered as a step to the same state is log 4 (DEDUCED). -/
def Obligations.IdleDoneAndErrorStatesStay : Prop :=
  ∀ s : State, s.st = .idle ∨ s.st = .done ∨ s.st = .err → step s = .next s

/-- 43_decode_loop R100: a step enters `S_DONE` exactly when the control step finds `ip = N`, and
changes nothing else then; in the other byte-reading states `ip = N` raises `TruncatedInput`. -/
def Obligations.DoneExactlyAtControlBoundary : Prop :=
  (∀ s t : State, s.st ≠ .done → step s = .next t →
    (t.st = .done ↔ s.st = .ctrl ∧ s.ip = s.n)) ∧
  (∀ s : State, s.st = .ctrl → s.ip = s.n → step s = .next { s with st := .done }) ∧
  (∀ s : State, s.st = .hdr ∨ s.st = .lext ∨ s.st = .ofs ∨ s.st = .xhi ∨ s.st = .xlo → s.ip = s.n →
    step s = .next { s with err := 2#3, st := .err })

/-- 60_exceptions R116: `UnsupportedDialect` is raised by the header step when the header byte's bits
[7:5] are 2..7, and never by any later byte. -/
def Obligations.UnsupportedDialectExactly : Prop :=
  ∀ s t : State, s.st ≠ .err → step s = .next t →
    (t.st = .err ∧ t.err = 1#3 ↔
      s.st = .hdr ∧ s.ip ≠ s.n ∧
        ∃ b, s.inMem.read s.ip = some b ∧ 2 ≤ (b.extractLsb' 5 3).toNat)

/-- 60_exceptions R117: `TruncatedInput` is raised at exactly the points of the table. -/
def Obligations.TruncatedInputExactly : Prop :=
  ∀ s t : State, s.st ≠ .err → step s = .next t →
    (t.st = .err ∧ t.err = 2#3 ↔
      ((s.st = .hdr ∨ s.st = .lext ∨ s.st = .ofs ∨ s.st = .xhi ∨ s.st = .xlo) ∧ s.ip = s.n) ∨
      (s.ip ≠ s.n ∧ ∃ b, s.inMem.read s.ip = some b ∧
        (s.st = .hdr ∧ (b.extractLsb' 5 3).toNat ≤ 1 ∨ s.st = .ctrl ∧ (b.extractLsb' 5 3).toNat = 0) ∧
        s.n - (s.ip + 1) < (b.extractLsb' 0 5).toNat + 1))

/-- 60_exceptions R118: `InvalidOffset` is raised by `validate`, at the offset step of a near offset or
at the last step of a far one, exactly when `finalOffset > olen`. -/
def Obligations.InvalidOffsetExactly : Prop :=
  ∀ s t : State, s.st ≠ .err → step s = .next t →
    (t.st = .err ∧ t.err = 3#3 ↔
      s.ip ≠ s.n ∧ ∃ b, s.inMem.read s.ip = some b ∧
        (s.st = .ofs ∧ ¬(s.dialect = .typeOne ∧ s.prm = 31#5 ∧ b = 0xFF#8) ∧
            s.olen < s.prm.toNat * 256 + b.toNat + 1 ∨
         s.st = .xlo ∧ s.olen < (s.ofs + farExtension s.xhi b).toNat + 1))

/-- 60_exceptions R119: `OutputOverflow` is raised exactly when `OUT_MAX` is finite and a literal that
is all present, or a backreference whose offset is valid, would take `olen` past it. -/
def Obligations.OutputOverflowExactly : Prop :=
  ∀ s t : State, s.st ≠ .err → step s = .next t →
    (t.st = .err ∧ t.err = 4#3 ↔
      s.ip ≠ s.n ∧ ∃ b m, s.inMem.read s.ip = some b ∧ s.cfg.outMax = some m ∧
        ((s.st = .hdr ∧ (b.extractLsb' 5 3).toNat ≤ 1 ∨ s.st = .ctrl ∧ (b.extractLsb' 5 3).toNat = 0) ∧
            (b.extractLsb' 0 5).toNat + 1 ≤ s.n - (s.ip + 1) ∧
            m < s.olen + ((b.extractLsb' 0 5).toNat + 1) ∨
         s.st = .ofs ∧ ¬(s.dialect = .typeOne ∧ s.prm = 31#5 ∧ b = 0xFF#8) ∧
            s.prm.toNat * 256 + b.toNat + 1 ≤ s.olen ∧ m < s.olen + s.len ∨
         s.st = .xlo ∧ (s.ofs + farExtension s.xhi b).toNat + 1 ≤ s.olen ∧ m < s.olen + s.len))

/-! ### The instructions -/

/-- 40_classifier R70 to R72, R74 (HDR_T0, HDR_T1): the dialect and `prm` are latched; then truncation
is tested, then capacity, then `p + 1` literal bytes are due. -/
def Obligations.HeaderRowsBeginALiteral : Prop :=
  ∀ (s : State) (p : BitVec 5) (i : Instr) (d : Dialect),
    (i = .hdrT0 p ∧ d = .typeZero ∨ i = .hdrT1 p ∧ d = .typeOne) →
    (p.toNat + 1 ≤ s.n - (s.ip + 1) → s.Fits (p.toNat + 1) →
      exec i s = .next { s with ip := s.ip + 1, dialect := d, prm := p, litRem := BitVec.ofNat 6 (p.toNat + 1), st := .lit }) ∧
    (s.n - (s.ip + 1) < p.toNat + 1 →
      exec i s = .next { s with ip := s.ip + 1, dialect := d, prm := p, err := 2#3, st := .err }) ∧
    (p.toNat + 1 ≤ s.n - (s.ip + 1) → ¬ s.Fits (p.toNat + 1) →
      exec i s = .next { s with ip := s.ip + 1, dialect := d, prm := p, err := 4#3, st := .err })

/-- 40_classifier R73 (HDR_INVALID_2 to HDR_INVALID_7): every header byte 0x40..0xFF is one of these
rows, and each raises `UnsupportedDialect` after the cursor has moved, whatever follows; `dialect`
is not written. -/
def Obligations.InvalidHeaderRowsRaise : Prop :=
  (∀ (s : State) (p : BitVec 5) (i : Instr),
    i ∈ [.hdrInvalid2 p, .hdrInvalid3 p, .hdrInvalid4 p, .hdrInvalid5 p, .hdrInvalid6 p, .hdrInvalid7 p] →
    exec i s = .next { s with ip := s.ip + 1, err := 1#3, st := .err }) ∧
  (∀ (s : State) (b : Byte), 0x40 ≤ b.toNat → s.st = .hdr → s.ip < s.n → s.inMem.read s.ip = some b →
    step s = .next { s with ip := s.ip + 1, err := 1#3, st := .err })

/-- 40_classifier R75, R76, R74 (LIT). -/
def Obligations.LitRowBeginsALiteral : Prop :=
  ∀ (s : State) (p : BitVec 5),
    (p.toNat + 1 ≤ s.n - (s.ip + 1) → s.Fits (p.toNat + 1) →
      exec (.lit p) s = .next { s with ip := s.ip + 1, cls := 0#3, prm := p, litRem := BitVec.ofNat 6 (p.toNat + 1), st := .lit }) ∧
    (s.n - (s.ip + 1) < p.toNat + 1 →
      exec (.lit p) s = .next { s with ip := s.ip + 1, cls := 0#3, prm := p, err := 2#3, st := .err }) ∧
    (p.toNat + 1 ≤ s.n - (s.ip + 1) → ¬ s.Fits (p.toNat + 1) →
      exec (.lit p) s = .next { s with ip := s.ip + 1, cls := 0#3, prm := p, err := 4#3, st := .err })

/-- 40_classifier R78 (BREF_C1 to BREF_C6, BREF_C7_T0, BREF_C7_T1): `len <- cls + 2`, then a length
extension for class 7 and the offset byte for the others. With a finite `LEN_SAT` the accumulator
takes the smaller of the two (decision D12, log 12). -/
def Obligations.BackrefRowsSetTheLength : Prop :=
  ∀ (s : State) (p : BitVec 5) (i : Instr) (k : Nat) (f : FsmState),
    (i = .brefC1 p ∧ k = 1 ∧ f = .ofs ∨ i = .brefC2 p ∧ k = 2 ∧ f = .ofs ∨
     i = .brefC3 p ∧ k = 3 ∧ f = .ofs ∨ i = .brefC4 p ∧ k = 4 ∧ f = .ofs ∨
     i = .brefC5 p ∧ k = 5 ∧ f = .ofs ∨ i = .brefC6 p ∧ k = 6 ∧ f = .ofs ∨
     i = .brefC7T0 p ∧ k = 7 ∧ f = .lext ∨ i = .brefC7T1 p ∧ k = 7 ∧ f = .lext) →
    (s.cfg.lenSat = none → exec i s = .next
      { s with ip := s.ip + 1, cls := BitVec.ofNat 3 k, prm := p, len := k + 2, st := f }) ∧
    (∀ m, s.cfg.lenSat = some m → exec i s = .next
      { s with ip := s.ip + 1, cls := BitVec.ofNat 3 k, prm := p, len := min (k + 2) m, st := f })

/-- 41_resolver R83 (LEXT_T0, LEXT_T1_MORE, LEXT_T1_END), for a machine without a saturation point:
`len <- len + e`; the offset byte follows a TypeZero byte or a byte other than 0xFF, another
extension byte follows 0xFF in TypeOne; `ip = N` raises `TruncatedInput`. -/
def Obligations.LengthExtensionRowsAdd : Prop :=
  ∀ s : State, s.cfg.lenSat = none →
    (∀ e : Byte, exec (.lextT0 e) s = .next
      { s with ip := s.ip + 1, len := s.len + e.toNat, st := .ofs }) ∧
    exec .lextT1More s = .next { s with ip := s.ip + 1, len := s.len + 255, st := .lext } ∧
    (∀ e : Byte, exec (.lextT1End e) s = .next
      { s with ip := s.ip + 1, len := s.len + e.toNat, st := .ofs }) ∧
    (s.st = .lext → s.ip = s.n → step s = .next { s with err := 2#3, st := .err }) ∧
    (∀ e : Byte, s.st = .lext → s.ip < s.n → s.inMem.read s.ip = some e →
      step s = .next { s with ip := s.ip + 1, len := s.len + e.toNat,
                              st := if s.dialect = .typeZero ∨ e ≠ 0xFF#8 then .ofs else .lext })

/-- 41_resolver R83 with decision D12: the same rows on a machine with a saturation point (log 12). -/
def Obligations.LengthExtensionRowsSaturate : Prop :=
  ∀ (s : State) (m : Nat), s.cfg.lenSat = some m →
    (∀ e : Byte, exec (.lextT0 e) s = .next
      { s with ip := s.ip + 1, len := min (s.len + e.toNat) m, st := .ofs }) ∧
    exec .lextT1More s = .next { s with ip := s.ip + 1, len := min (s.len + 255) m, st := .lext } ∧
    (∀ e : Byte, exec (.lextT1End e) s = .next
      { s with ip := s.ip + 1, len := min (s.len + e.toNat) m, st := .ofs })

/-- 41_resolver R85, R88 to R90 (OFS_NEAR): the offset is `prm · 256 + lo`; it is tested against the
output length, then the capacity is tested, then the copy begins. -/
def Obligations.NearOffsetRowValidates : Prop :=
  ∀ (s : State) (lo : Byte) (r : Nat), r = s.prm.toNat * 256 + lo.toNat →
    (r + 1 ≤ s.olen → s.Fits s.len →
      exec (.ofsNear lo) s = .next
        { s with ip := s.ip + 1, ofs := BitVec.ofNat 17 r, src := s.olen - (r + 1), cpyRem := s.len, st := .copy }) ∧
    (s.olen < r + 1 →
      exec (.ofsNear lo) s = .next
        { s with ip := s.ip + 1, ofs := BitVec.ofNat 17 r, err := 3#3, st := .err }) ∧
    (r + 1 ≤ s.olen → ¬ s.Fits s.len →
      exec (.ofsNear lo) s = .next
        { s with ip := s.ip + 1, ofs := BitVec.ofNat 17 r, err := 4#3, st := .err })

/-- 41_resolver R86 (OFS_FAR_T1), its three steps: the trigger byte, `xhi`, and the big-endian
extension that is added to 0x1FFF and validated. The premises `prm = 31` and `ofs = 0x1FFF` are
those under which the rule enters each step. -/
def Obligations.FarOffsetRowExtendsAndValidates : Prop :=
  (∀ s : State, s.prm = 31#5 → exec (.ofsFarT1 .trigger) s = .next
    { s with ip := s.ip + 1, ofs := 0x1FFF#17, st := .xhi }) ∧
  (∀ (s : State) (xh : Byte), exec (.ofsFarT1 (.extHigh xh)) s = .next
    { s with ip := s.ip + 1, xhi := xh, st := .xlo }) ∧
  (∀ (s : State) (xl : Byte) (r : Nat), s.ofs = 0x1FFF#17 →
    r = 0x1FFF + (s.xhi.toNat * 256 + xl.toNat) →
    (r + 1 ≤ s.olen → s.Fits s.len → exec (.ofsFarT1 (.extLow xl)) s = .next
      { s with ip := s.ip + 1, ofs := BitVec.ofNat 17 r, src := s.olen - (r + 1), cpyRem := s.len, st := .copy }) ∧
    (s.olen < r + 1 → exec (.ofsFarT1 (.extLow xl)) s = .next
      { s with ip := s.ip + 1, ofs := BitVec.ofNat 17 r, err := 3#3, st := .err }) ∧
    (r + 1 ≤ s.olen → ¬ s.Fits s.len → exec (.ofsFarT1 (.extLow xl)) s = .next
      { s with ip := s.ip + 1, ofs := BitVec.ofNat 17 r, err := 4#3, st := .err }))

/-- 40_classifier R77, the literal transfer step: the byte at `ip` is appended at `olen`. The premises
are what R74 guarantees in `S_LIT`. -/
def Obligations.LiteralTransferAppendsTheInputByte : Prop :=
  ∀ (s : State) (v : Byte), s.st = .lit → s.litRem ≠ 0#6 → s.ip < s.n → s.inMem.read s.ip = some v →
    s.Fits 1 →
    step s = .next { s with
      ip := s.ip + 1, outMem := s.outMem.write s.olen v, olen := s.olen + 1, litRem := s.litRem - 1#6,
      st := if s.litRem = 1#6 then .ctrl else .lit }

/-- 42_copy R92, the copy step: the byte at `src` is appended at `olen`. The premises are what R88 to
R90 guarantee in `S_COPY`. -/
def Obligations.CopyStepAppendsTheSourceByte : Prop :=
  ∀ (s : State) (v : Byte), s.st = .copy → 1 ≤ s.cpyRem → s.src < s.olen →
    s.outMem.read s.src = some v → s.Fits 1 →
    step s = .next { s with
      outMem := s.outMem.write s.olen v, olen := s.olen + 1, src := s.src + 1, cpyRem := s.cpyRem - 1,
      st := if s.cpyRem - 1 = 0 then .ctrl else .copy }

/-- Where the two transfer steps stop, and by which fault: on accesses that 20_memory R34 says do not
exist, on bytes nothing has written (10_state R32), and on a count below zero (00_scope R4). That
they stop there is the model's choice (log 3, 10, 11). -/
def Obligations.TransferStepsStopByName : Prop :=
  ∀ s : State,
    (s.st = .lit →
      (s.litRem = 0#6 → step s = .fault .countBelowZero) ∧
      (s.litRem ≠ 0#6 → s.n ≤ s.ip → step s = .fault (.inReadBeyondBlock s.ip)) ∧
      (s.litRem ≠ 0#6 → s.ip < s.n → s.inMem.read s.ip = none → step s = .fault (.inReadUnwritten s.ip)) ∧
      (s.litRem ≠ 0#6 → s.ip < s.n → (s.inMem.read s.ip).isSome = true → ¬ s.Fits 1 →
        step s = .fault (.outWriteBeyondCapacity s.olen))) ∧
    (s.st = .copy →
      (s.cpyRem = 0 → step s = .fault .countBelowZero) ∧
      (s.cpyRem ≠ 0 → s.olen ≤ s.src → step s = .fault (.outReadBeyondOutput s.src)) ∧
      (s.cpyRem ≠ 0 → s.src < s.olen → s.outMem.read s.src = none →
        step s = .fault (.outReadUnwritten s.src)) ∧
      (s.cpyRem ≠ 0 → s.src < s.olen → (s.outMem.read s.src).isSome = true → ¬ s.Fits 1 →
        step s = .fault (.outWriteBeyondCapacity s.olen)))

/-! ### Frames -/

/-- 40_classifier R71 to R73: a header row writes `ip`, `dialect`, `prm`, `lit_rem`, `st` and, when it
raises, `err`; an unsupported one writes `ip`, `err` and `st` only. No memory byte changes. -/
def Obligations.HeaderRowsFrame : Prop :=
  ∀ (s t : State) (p : BitVec 5) (i : Instr),
    (i ∈ [.hdrT0 p, .hdrT1 p] ∨
     i ∈ [.hdrInvalid2 p, .hdrInvalid3 p, .hdrInvalid4 p, .hdrInvalid5 p, .hdrInvalid6 p, .hdrInvalid7 p]) →
    exec i s = .next t →
    t.cfg = s.cfg ∧ t.n = s.n ∧ t.olen = s.olen ∧ t.cls = s.cls ∧ t.len = s.len ∧ t.ofs = s.ofs ∧
    t.xhi = s.xhi ∧ t.src = s.src ∧ t.cpyRem = s.cpyRem ∧ (t.st ≠ .err → t.err = s.err) ∧
    (i ∈ [.hdrInvalid2 p, .hdrInvalid3 p, .hdrInvalid4 p, .hdrInvalid5 p, .hdrInvalid6 p, .hdrInvalid7 p] →
      t.dialect = s.dialect ∧ t.prm = s.prm ∧ t.litRem = s.litRem) ∧
    (∀ a, t.inMem.read a = s.inMem.read a) ∧ (∀ a, t.outMem.read a = s.outMem.read a)

/-- 40_classifier R76: LIT writes `ip`, `cls`, `prm`, `lit_rem`, `st` and, when it raises, `err`. -/
def Obligations.LitRowFrame : Prop :=
  ∀ (s t : State) (p : BitVec 5), exec (.lit p) s = .next t →
    t.cfg = s.cfg ∧ t.n = s.n ∧ t.olen = s.olen ∧ t.dialect = s.dialect ∧ t.len = s.len ∧
    t.ofs = s.ofs ∧ t.xhi = s.xhi ∧ t.src = s.src ∧ t.cpyRem = s.cpyRem ∧
    (t.st ≠ .err → t.err = s.err) ∧ (t.st = .err → t.litRem = s.litRem) ∧
    (∀ a, t.inMem.read a = s.inMem.read a) ∧ (∀ a, t.outMem.read a = s.outMem.read a)

/-- 40_classifier R78: a backreference control byte writes `ip`, `cls`, `prm`, `len` and `st`. -/
def Obligations.BackrefRowsFrame : Prop :=
  ∀ (s t : State) (p : BitVec 5) (i : Instr),
    i ∈ [.brefC1 p, .brefC2 p, .brefC3 p, .brefC4 p, .brefC5 p, .brefC6 p, .brefC7T0 p, .brefC7T1 p] →
    exec i s = .next t →
    t.cfg = s.cfg ∧ t.n = s.n ∧ t.olen = s.olen ∧ t.dialect = s.dialect ∧ t.litRem = s.litRem ∧
    t.ofs = s.ofs ∧ t.xhi = s.xhi ∧ t.src = s.src ∧ t.cpyRem = s.cpyRem ∧ t.err = s.err ∧
    (∀ a, t.inMem.read a = s.inMem.read a) ∧ (∀ a, t.outMem.read a = s.outMem.read a)

/-- 41_resolver R83: a length-extension byte writes `ip`, `len` and `st`. -/
def Obligations.LengthExtensionRowsFrame : Prop :=
  ∀ (s t : State) (e : Byte) (i : Instr), i ∈ [.lextT0 e, .lextT1More, .lextT1End e] →
    exec i s = .next t →
    t.cfg = s.cfg ∧ t.n = s.n ∧ t.olen = s.olen ∧ t.dialect = s.dialect ∧ t.cls = s.cls ∧
    t.prm = s.prm ∧ t.litRem = s.litRem ∧ t.ofs = s.ofs ∧ t.xhi = s.xhi ∧ t.src = s.src ∧
    t.cpyRem = s.cpyRem ∧ t.err = s.err ∧
    (∀ a, t.inMem.read a = s.inMem.read a) ∧ (∀ a, t.outMem.read a = s.outMem.read a)

/-- 41_resolver R84, R86, R88 to R90: an offset byte writes `ip`, `ofs`, `src`, `cpy_rem`, `st` and, when it
raises, `err`; the high extension byte writes `xhi` and not `ofs`; the trigger and the high byte
leave `src` and `cpy_rem` alone. -/
def Obligations.OffsetRowsFrame : Prop :=
  ∀ (s t : State) (i : Instr), ((∃ lo, i = .ofsNear lo) ∨ ∃ b, i = .ofsFarT1 b) → exec i s = .next t →
    t.cfg = s.cfg ∧ t.n = s.n ∧ t.olen = s.olen ∧ t.dialect = s.dialect ∧ t.cls = s.cls ∧
    t.prm = s.prm ∧ t.litRem = s.litRem ∧ t.len = s.len ∧ (t.st ≠ .err → t.err = s.err) ∧
    ((∀ xh, i ≠ .ofsFarT1 (.extHigh xh)) → t.xhi = s.xhi) ∧
    ((∃ xh, i = .ofsFarT1 (.extHigh xh)) → t.ofs = s.ofs) ∧
    (t.st ≠ .copy → t.src = s.src ∧ t.cpyRem = s.cpyRem) ∧
    (∀ a, t.inMem.read a = s.inMem.read a) ∧ (∀ a, t.outMem.read a = s.outMem.read a)

/-- 40_classifier R77, 42_copy R92: the two steps that store write one byte, at index `olen` of OUT;
every other byte of both memories reads as before, and every register outside the rule's own list is
unchanged. -/
def Obligations.TransferStepsFrame : Prop :=
  (∀ s t : State, literalStep s = .next t →
    t.cfg = s.cfg ∧ t.n = s.n ∧ t.dialect = s.dialect ∧ t.cls = s.cls ∧ t.prm = s.prm ∧ t.len = s.len ∧
    t.ofs = s.ofs ∧ t.xhi = s.xhi ∧ t.src = s.src ∧ t.cpyRem = s.cpyRem ∧ t.err = s.err ∧
    (∀ a, t.inMem.read a = s.inMem.read a) ∧ (∀ a, a ≠ s.olen → t.outMem.read a = s.outMem.read a)) ∧
  (∀ s t : State, copyStep s = .next t →
    t.cfg = s.cfg ∧ t.ip = s.ip ∧ t.n = s.n ∧ t.dialect = s.dialect ∧ t.cls = s.cls ∧ t.prm = s.prm ∧
    t.litRem = s.litRem ∧ t.len = s.len ∧ t.ofs = s.ofs ∧ t.xhi = s.xhi ∧ t.err = s.err ∧
    (∀ a, t.inMem.read a = s.inMem.read a) ∧ (∀ a, a ≠ s.olen → t.outMem.read a = s.outMem.read a))

/-! ### Whole-machine rules -/

/-- 10_state R15, 20_memory R35, 43_decode_loop R101: no step moves the cursor back or by more than
one byte, none reads at or past `N`, and none writes IN, `N` or the parameters. -/
def Obligations.StepMovesTheCursorForwardByAtMostOne : Prop :=
  ∀ s t : State, step s = .next t →
    t.cfg = s.cfg ∧ t.n = s.n ∧ t.inMem = s.inMem ∧
    (t.ip = s.ip ∨ t.ip = s.ip + 1 ∧ s.ip < s.n)

/-- 20_memory R37: a step leaves OUT alone, or appends one byte at index `olen`, which only `S_LIT` and
`S_COPY` do; no byte below `olen` ever changes. -/
def Obligations.OutputIsAppendOnly : Prop :=
  ∀ s t : State, step s = .next t →
    (t.olen = s.olen ∧ t.outMem = s.outMem) ∨
    ((s.st = .lit ∨ s.st = .copy) ∧ t.olen = s.olen + 1 ∧ s.Fits 1 ∧
      (t.outMem.read s.olen).isSome = true ∧ ∀ a, a ≠ s.olen → t.outMem.read a = s.outMem.read a)

/-- 60_exceptions R120, R121: the step that enters `S_ERR` writes no output byte, and leaves the code
of one of the four kinds in `err`. -/
def Obligations.ErrorEntryWritesNoOutput : Prop :=
  ∀ s t : State, s.st ≠ .err → step s = .next t → t.st = .err →
    t.olen = s.olen ∧ t.outMem = s.outMem ∧
    (t.err = 1#3 ∨ t.err = 2#3 ∨ t.err = 3#3 ∨ t.err = 4#3)

/-- 10_state R26: `err` is written by error entry, by Start (cleared) and by reset (cleared) only; it is
0 in every reachable state but `S_ERR`, where it is a code 1..4 (60_exceptions R115). -/
def Obligations.ErrHoldsTheDecodesErrorCode : Prop :=
  (∀ s t : State, step s = .next t → t.err = s.err ∨ s.st ≠ .err ∧ t.st = .err) ∧
  (∀ (s t : State) (blk : List Byte), s.move (.start blk) = some t → t.err = 0#3) ∧
  (∀ s t : State, s.move .reset = some t → t.err = 0#3) ∧
  (∀ s : State, Reachable s →
    (s.st ≠ .err → s.err = 0#3) ∧ (s.st = .err → 1 ≤ s.err.toNat ∧ s.err.toNat ≤ 4))

/-- 10_state R18: among the engine's steps only the header step writes `dialect`. -/
def Obligations.OnlyTheHeaderStepWritesDialect : Prop :=
  ∀ s t : State, step s = .next t → s.st ≠ .hdr → t.dialect = s.dialect

/-! ### Invariants -/

/-- The invariant holds after reset, for all legal parameters and for State.reset's. The values of the
registers that the spec leaves unspecified are log 1's (DESIGN CHOICE). -/
def Obligations.InvariantHoldsAfterReset : Prop :=
  (∀ c : Config, c.legal = true → Inv (State.resetWith c)) ∧ Inv State.reset

/-- Every engine step keeps the invariant (10_state R33 made inductive). -/
def Obligations.EveryStepKeepsTheInvariant : Prop :=
  ∀ s t : State, Inv s → step s = .next t → Inv t

/-- Start and Reset keep the invariant. For Reset, which leaves every register but `st` and `err`
unspecified (70_reset R133), this rests on the zeros that the model chose (log 8 and log 1, DESIGN
CHOICE). -/
def Obligations.HostMovesKeepTheInvariant : Prop :=
  ∀ (s t : State) (m : Move), Inv s → (m = .reset ∨ ∃ blk, m = .start blk) → s.move m = some t → Inv t

/-- 10_state R33: the bounds of every reachable state of a decode (from Start on, so not of `S_IDLE`). -/
def Obligations.ReachableStatesMeetTheBounds : Prop :=
  ∀ s : State, Reachable s →
    (s.st ≠ .idle → s.ip ≤ s.n ∧ s.Fits 0) ∧
    (s.st = .lit → 1 ≤ s.litRem.toNat ∧ s.litRem.toNat ≤ 32 ∧
      s.ip + s.litRem.toNat ≤ s.n ∧ s.Fits s.litRem.toNat) ∧
    (s.st = .copy → 1 ≤ s.cpyRem ∧ s.src < s.olen ∧ s.Fits s.cpyRem) ∧
    (s.st = .lext → s.cls = 7#3) ∧
    (s.st = .xhi ∨ s.st = .xlo → s.dialect = .typeOne) ∧
    (s.st = .xhi → s.ofs = 0x1FFF#17)

/-- 20_memory R34, 10_state R31, 42_copy R95: from a state that meets the invariant a step never stops.
In `S_IDLE`, `S_DONE` and `S_ERR`, which have no engine step (43_decode_loop R99), that it answers the same
state is log 4 (DEDUCED). -/
def Obligations.NoStepStopsUnderTheInvariant : Prop :=
  ∀ s : State, Inv s → ∃ t, step s = .next t

/-! ### Runs -/

/-- 42_copy R93: the copy phase. From a state about to copy `L` bytes from distance `d`, `L` steps return to
the control boundary; each appended byte is the byte `d` below it, earlier appends included, which is the
last `d` bytes cyclically. -/
def Obligations.CopyRunRepeatsTheLastBytes : Prop :=
  ∀ (s : State) (d l : Nat), s.st = .copy → s.cpyRem = l → 1 ≤ l → 1 ≤ d → d ≤ s.olen →
    s.src = s.olen - d → s.Fits l → (∀ a, a < s.olen → (s.outMem.read a).isSome = true) →
    ∃ t, run l s = .next t ∧ t.st = .ctrl ∧ t.olen = s.olen + l ∧ t.ip = s.ip ∧
      (∀ a, a < s.olen → t.outMem.read a = s.outMem.read a) ∧
      (∀ j, j < l → t.outMem.read (s.olen + j) = t.outMem.read (s.olen - d + j)) ∧
      (∀ j, j < l → t.outMem.read (s.olen + j) = s.outMem.read (s.olen - d + j % d))

/-- 41_resolver R82: a TypeOne chain of `m - 1` bytes 0xFF and one byte below 0xFF adds `255·(m-1) + xm` in
`m` steps, for a machine without a saturation point. -/
def Obligations.ExtensionChainSums : Prop :=
  ∀ (s : State) (k : Nat) (x : Byte), s.st = .lext → s.dialect = .typeOne → s.cfg.lenSat = none →
    s.ip + k + 1 ≤ s.n → (∀ j, j < k → s.inMem.read (s.ip + j) = some 0xFF#8) →
    s.inMem.read (s.ip + k) = some x → x ≠ 0xFF#8 →
    run (k + 1) s = .next { s with ip := s.ip + k + 1, len := s.len + (255 * k + x.toNat), st := .ofs }

/-- 40_classifier R71, R72, R76: the net effect of a whole literal segment that is present and fits: its data
bytes are appended verbatim and the engine is at a control boundary after it. -/
def Obligations.LiteralSegmentNetEffect : Prop :=
  ∀ (s : State) (seg : Segment) (d : Dialect),
    (s.st = .ctrl ∧ s.dialect = d ∧ (∃ data, seg = .lit data) ∨ s.st = .hdr ∧ ∃ data, seg = .hdr d data) →
    seg.wf d = true → s.ip + seg.bytes.length ≤ s.n →
    (∀ j, j < seg.bytes.length → s.inMem.read (s.ip + j) = seg.bytes[j]?) → s.Fits seg.data.length →
    ∃ t, run (1 + seg.data.length) s = .next t ∧ t.st = .ctrl ∧ t.dialect = d ∧
      t.ip = s.ip + seg.bytes.length ∧ t.olen = s.olen + seg.data.length ∧
      t.n = s.n ∧ t.inMem = s.inMem ∧ t.err = s.err ∧ t.cfg = s.cfg ∧
      (∀ a, a < s.olen → t.outMem.read a = s.outMem.read a) ∧
      (∀ j, j < seg.data.length → t.outMem.read (s.olen + j) = seg.data[j]?)

/-- 42_copy R97: the net effect of a whole backreference segment, from its control byte to its last copy step,
with the length and distance of 41_resolver R80 to R87, for all legal parameters. -/
def Obligations.BackreferenceSegmentNetEffect : Prop :=
  ∀ (s : State) (seg : Segment) (l d : Nat), s.st = .ctrl → s.cfg.legal = true →
    seg.wf s.dialect = true → seg.isControl = true →
    seg.copyLength = some l → seg.distance = some d → s.ip + seg.bytes.length ≤ s.n →
    (∀ j, j < seg.bytes.length → s.inMem.read (s.ip + j) = seg.bytes[j]?) →
    (∀ a, a < s.olen → (s.outMem.read a).isSome = true) → d ≤ s.olen → s.Fits l →
    ∃ t, run (seg.bytes.length + l) s = .next t ∧ t.st = .ctrl ∧
      t.ip = s.ip + seg.bytes.length ∧ t.olen = s.olen + l ∧
      t.n = s.n ∧ t.inMem = s.inMem ∧ t.dialect = s.dialect ∧ t.err = s.err ∧ t.cfg = s.cfg ∧
      (∀ a, a < s.olen → t.outMem.read a = s.outMem.read a) ∧
      (∀ j, j < l → t.outMem.read (s.olen + j) = s.outMem.read (s.olen - d + j % d))

/-- 43_decode_loop R104: every decode reaches `S_DONE` or `S_ERR` in at most `N + olen_end + 1` steps, with
`olen_end <= 255 · N`: every step but the last consumes an input byte or is a copy step that appends
an output byte. -/
def Obligations.EveryDecodeTerminates : Prop :=
  ∀ (s s1 : State) (blk : List Byte), s.cfg.legal = true → s.start blk = some s1 →
    ∃ k t, run k s1 = .next t ∧ (t.st = .done ∨ t.st = .err) ∧
      k ≤ blk.length + t.olen + 1 ∧ t.olen ≤ 255 * blk.length ∧
      ∀ j u v, j + 1 < k → run j s1 = .next u → step u = .next v →
        v.ip = u.ip + 1 ∨ u.st = .copy ∧ v.olen = u.olen + 1

/-- 43_decode_loop R105: a segment of `k` bytes appends at most `255 · k` bytes, with the bounds of
each kind of segment, and `olen <= 255 · N` at
every point of a decode. -/
def Obligations.OutputIsBoundedByTheInput : Prop :=
  (∀ (d : Dialect) (seg : Segment) (l : Nat), seg.wf d = true →
    (seg.copyLength = some l ∨ seg.copyLength = none ∧ l = seg.data.length) →
    l ≤ 255 * seg.bytes.length) ∧
  (∀ (d : Dialect) (seg : Segment), seg.wf d = true → seg.copyLength = none →
    seg.bytes.length = seg.data.length + 1) ∧
  (∀ (d : Dialect) (c : BitVec 3) (p : BitVec 5) (lo : Byte) (far : Option (Byte × Byte)) (l : Nat),
    (Segment.bref c p lo far).wf d = true → (Segment.bref c p lo far).copyLength = some l →
    l ≤ 8 ∧ 2 ≤ (Segment.bref c p lo far).bytes.length) ∧
  (∀ (d : Dialect) (p : BitVec 5) (xs : List Byte) (lo : Byte) (far : Option (Byte × Byte)) (l : Nat),
    (Segment.bref7 p xs lo far).wf d = true → (Segment.bref7 p xs lo far).copyLength = some l →
    (d = .typeZero → l ≤ 264 ∧ (Segment.bref7 p xs lo far).bytes.length = 3) ∧
    (d = .typeOne → l ≤ 9 + 255 * xs.length ∧ xs.length + 2 ≤ (Segment.bref7 p xs lo far).bytes.length)) ∧
  (∀ s : State, Reachable s → s.st ≠ .idle → s.olen ≤ 255 * s.n)

/-- 43_decode_loop R103: the FSM and the reference function agree, for every block and all legal
parameters. -/
def Obligations.EngineComputesTheReferenceFunction : Prop :=
  ∀ (s s1 : State) (blk : List Byte), s.cfg.legal = true → s.start blk = some s1 →
    (∃ k t, run k s1 = .next t ∧ t.isTerminal = true) ∧
    (∀ k t, run k s1 = .next t → t.isTerminal = true →
      t.outcome = decompress s.cfg.outMax blk ∧ t.outcome.isSome = true)

/-- 00_scope R11, 70_reset R145: the outcome depends on the block and on OUT_MAX only: not on what the
registers and memories held before Start, nor on IN_MAX or LEN_SAT (decision D12). -/
def Obligations.OutcomeDependsOnBlockAndCapacityOnly : Prop :=
  ∀ (s s' s1 s1' t t' : State) (blk : List Byte) (k k' : Nat),
    s.cfg.legal = true → s'.cfg.legal = true → s.cfg.outMax = s'.cfg.outMax →
    s.start blk = some s1 → s'.start blk = some s1' →
    run k s1 = .next t → run k' s1' = .next t' → t.isTerminal = true → t'.isTerminal = true →
    t.outcome = t'.outcome

/-! ### The host -/

/-- 43_decode_loop R106, R107: Start's writes, and exactly when there is no such move. OUT and the other
registers keep their contents. That bytes of IN past the block keep theirs too is the model's choice
(log 13, DEDUCED). -/
def Obligations.StartLoadsTheBlock : Prop :=
  ∀ (s : State) (blk : List Byte),
    (s.start blk = none ↔ s.status = .busy ∨ s.cfg.inMax < blk.length) ∧
    (∀ t, s.start blk = some t →
      t = { s with st := .hdr, ip := 0, n := blk.length, olen := 0, err := 0#3, inMem := t.inMem } ∧
      (∀ a, a < blk.length → t.inMem.read a = blk[a]?) ∧
      (∀ a, blk.length ≤ a → t.inMem.read a = s.inMem.read a))

/-- 70_reset R133, R134: Reset is accepted in every state, also while BUSY, and leaves `S_IDLE` and `err = 0`:
STATUS reads IDLE and ERR reads 0. The parameters do not change. -/
def Obligations.ResetLeavesIdleAndNoError : Prop :=
  (∀ s : State, ∃ t, s.move .reset = some t ∧ t.st = .idle ∧ t.err = 0#3 ∧ t.readStatus = 0#2 ∧
    t.readErr = 0#3 ∧ t.outcome = none ∧ t.cfg = s.cfg) ∧
  State.reset.st = .idle ∧ State.reset.err = 0#3

/-- 10_state R27: STATUS as a function of `st`. -/
def Obligations.StatusIsAFunctionOfTheFsmState : Prop :=
  ∀ s : State,
    (s.st = .idle → s.readStatus = 0#2) ∧
    (s.st = .hdr ∨ s.st = .ctrl ∨ s.st = .lit ∨ s.st = .lext ∨ s.st = .ofs ∨ s.st = .xhi ∨
      s.st = .xlo ∨ s.st = .copy → s.readStatus = 1#2) ∧
    (s.st = .done → s.readStatus = 2#2) ∧
    (s.st = .err → s.readStatus = 3#2)

/-- 43_decode_loop R109, R110: OUT_LEN and OUT are read in DONE only; the outcome is `Ok` of exactly
`OUT[0..olen-1]` in DONE and `Err` of the kind ERR names in ERROR, without any output. -/
def Obligations.HostObservesTheOutcome : Prop :=
  ∀ s : State, Inv s →
    (s.st ≠ .done → s.readOutLen = none ∧ ∀ a, s.readOut a = none) ∧
    (s.st = .done → s.readOutLen = some s.olen ∧ ∃ l : List Byte, s.outcome = some (.ok l) ∧
      l.length = s.olen ∧ ∀ a, a < s.olen → s.readOut a = l[a]? ∧ s.readOut a = s.outMem.read a) ∧
    (s.st = .err → ∃ k : ErrKind, s.outcome = some (.error k) ∧ s.readErr = k.code) ∧
    (s.st ≠ .done → s.st ≠ .err → s.outcome = none)

/-- 60_exceptions R131: instances share no state: a move on one leaves every other as it is, and moves on two
of them can be made in either order. -/
def Obligations.InstancesAreIndependent : Prop :=
  ∀ (sys : System) (j k : Nat) (m m' : Move), j ≠ k →
    (∀ sys', sys.move j m = some sys' → sys'.length = sys.length ∧ sys'[k]? = sys[k]?) ∧
    (sys.move j m).bind (fun x => System.move x k m') = (sys.move k m').bind (fun x => System.move x j m)
end

