-- ==== Sys2Proof/Laws/Fields.lean ====
section
/-! SUPPORT. The fields of a byte and the values of the assembled operands. -/

namespace Sys2Proof

@[simp] theorem classField_packByte (c : BitVec 3) (p : BitVec 5) : classField (packByte c p) = c := by
  revert c p; unfold packByte classField; decide

@[simp] theorem paramField_packByte (c : BitVec 3) (p : BitVec 5) : paramField (packByte c p) = p := by
  revert c p; unfold packByte paramField; decide

@[simp] theorem packByte_fields (b : Byte) : packByte (classField b) (paramField b) = b := by
  revert b; unfold packByte classField paramField; decide

/-- The offset field as a number: `prm · 256 + lo` (41_resolver R84). -/
theorem rawOffset_toNat (p : BitVec 5) (lo : Byte) :
    (rawOffset p lo).toNat = p.toNat * 256 + lo.toNat := by
  have := p.isLt; have := lo.isLt
  unfold rawOffset
  rw [BitVec.toNat_or, BitVec.toNat_shiftLeft, BitVec.toNat_setWidth_of_le (by omega),
    BitVec.toNat_setWidth_of_le (by omega), Nat.shiftLeft_eq, Nat.mod_eq_of_lt (by omega),
    ← Nat.shiftLeft_eq, ← Nat.shiftLeft_add_eq_or_of_lt (by omega), Nat.shiftLeft_eq]

/-- The far extension as a number (20_memory R39). -/
theorem farExtension_toNat (xh xl : Byte) :
    (farExtension xh xl).toNat = xh.toNat * 256 + xl.toNat := by
  have := xh.isLt; have := xl.isLt
  unfold farExtension
  rw [BitVec.toNat_or, BitVec.toNat_shiftLeft, BitVec.toNat_setWidth_of_le (by omega),
    BitVec.toNat_setWidth_of_le (by omega), Nat.shiftLeft_eq, Nat.mod_eq_of_lt (by omega),
    ← Nat.shiftLeft_eq, ← Nat.shiftLeft_add_eq_or_of_lt (by omega), Nat.shiftLeft_eq]

/-- A literal length fits the 6 bits of `lit_rem` (10_state R20). -/
@[simp] theorem literalLength_in_litRem (p : BitVec 5) :
    (BitVec.ofNat 6 (literalLength p)).toNat = literalLength p := by
  have := p.isLt
  rw [BitVec.toNat_ofNat, Nat.mod_eq_of_lt (by unfold literalLength; omega)]

/-- Decrementing a nonzero `lit_rem` is subtraction of naturals (10_state R20, 00_scope R4). -/
theorem litRem_sub_one_toNat {w : BitVec 6} (h : w ≠ 0#6) : (w - 1#6).toNat = w.toNat - 1 := by
  have hw : w.toNat ≠ 0 := fun h0 => h (BitVec.eq_of_toNat_eq h0)
  have := w.isLt
  rw [BitVec.toNat_sub]
  simp only [BitVec.toNat_ofNat]
  omega

end Sys2Proof
end

