-- ==== Sys2Proof/Laws/Memory.lean ====
section
/-! SUPPORT. The laws of the byte memories: a read after a write, the canonical form, block writes. -/

namespace Sys2Proof.Machine

@[simp] theorem Memory.read_nil (a : Nat) : Memory.read [] a = none := rfl

@[simp] theorem Memory.wf_nil : Memory.wf [] = true := rfl

/-- A read gives the value just written. -/
@[simp] theorem Memory.read_write_same (m : Memory) (a : Nat) (v : Byte) :
    (m.write a v).read a = some v := by
  induction m with
  | nil => simp [Memory.write, Memory.read]
  | cons c rest ih =>
    obtain ⟨k, w⟩ := c
    rw [Memory.write]
    split
    · rw [Memory.read, if_neg (by omega)]; exact ih
    · split <;> simp [Memory.read]

/-- A write leaves every other index alone. -/
theorem Memory.read_write_other (m : Memory) (a b : Nat) (v : Byte) (h : b ≠ a) :
    (m.write a v).read b = m.read b := by
  induction m with
  | nil => simp [Memory.write, Memory.read, Ne.symm h]
  | cons c rest ih =>
    obtain ⟨k, w⟩ := c
    rw [Memory.write]
    split
    · simp [Memory.read, ih]
    · split <;> rename_i h2
      · subst h2; simp [Memory.read, Ne.symm h]
      · simp [Memory.read, Ne.symm h]

/-- Both laws of a write at once. -/
theorem Memory.read_write (m : Memory) (a b : Nat) (v : Byte) :
    (m.write a v).read b = if b = a then some v else m.read b := by
  split
  · next h => rw [h, Memory.read_write_same]
  · next h => exact Memory.read_write_other m a b v h

/-- The canonical form of a list with a head: the tail's indices are all above the head's. -/
theorem Memory.wf_cons {k : Nat} {w : Byte} {rest : Memory} :
    Memory.wf ((k, w) :: rest) = true ↔
      Memory.wf rest = true ∧ ∀ j x, rest.head? = some (j, x) → k < j := by
  cases rest with
  | nil => simp [Memory.wf]
  | cons c rest => obtain ⟨j, x⟩ := c; simp [Memory.wf, and_comm]

/-- The head of a written list is the written entry or the old head. -/
theorem Memory.head_write {m : Memory} {a j : Nat} {v x : Byte}
    (h : (m.write a v).head? = some (j, x)) : j = a ∨ m.head? = some (j, x) := by
  cases m with
  | nil => simp [Memory.write] at h; exact .inl h.1.symm
  | cons c rest =>
    obtain ⟨k, w⟩ := c
    rw [Memory.write] at h
    split at h
    · exact .inr h
    · split at h <;> simp at h <;> exact .inl h.1.symm

/-- A write keeps the canonical form. -/
theorem Memory.wf_write {m : Memory} (a : Nat) (v : Byte) (h : m.wf = true) :
    (m.write a v).wf = true := by
  induction m with
  | nil => rfl
  | cons c rest ih =>
    obtain ⟨k, w⟩ := c
    obtain ⟨hr, hk⟩ := Memory.wf_cons.mp h
    rw [Memory.write]
    split
    · next hlt =>
      refine Memory.wf_cons.mpr ⟨ih hr, fun j x hj => ?_⟩
      rcases Memory.head_write hj with rfl | hj
      · exact hlt
      · exact hk j x hj
    · split
      · next heq => subst heq; exact Memory.wf_cons.mpr ⟨hr, hk⟩
      · refine Memory.wf_cons.mpr ⟨h, fun j x hj => ?_⟩
        simp at hj; omega

/-- A block write keeps the canonical form. -/
theorem Memory.wf_writeFrom {m : Memory} (a : Nat) (vs : List Byte) (h : m.wf = true) :
    (m.writeFrom a vs).wf = true := by
  induction vs generalizing m a with
  | nil => exact h
  | cons v rest ih => exact ih (a + 1) (Memory.wf_write a v h)

/-- What a block write leaves at an index. -/
theorem Memory.read_writeFrom (m : Memory) (a b : Nat) (vs : List Byte) :
    (m.writeFrom a vs).read b =
      if a ≤ b ∧ b < a + vs.length then vs[b - a]? else m.read b := by
  induction vs generalizing m a with
  | nil => rw [if_neg (by simp)]; rfl
  | cons v rest ih =>
    rw [Memory.writeFrom, ih]
    by_cases hba : b = a
    · subst hba
      rw [if_neg (by omega), if_pos (by simp), Memory.read_write_same]; simp
    · rw [Memory.read_write_other m a b v hba]
      by_cases hin : a + 1 ≤ b ∧ b < a + 1 + rest.length
      · rw [if_pos hin, if_pos (by simp; omega)]
        obtain ⟨j, rfl⟩ : ∃ j, b = a + 1 + j := ⟨b - (a + 1), by omega⟩
        rw [show a + 1 + j - (a + 1) = j by omega, show a + 1 + j - a = j + 1 by omega]
        simp
      · rw [if_neg hin, if_neg (by simp; omega)]

/-- The block's bytes after Start: byte `a` of IN is byte `a` of the block. -/
theorem Memory.read_writeFrom_zero (m : Memory) (vs : List Byte) {a : Nat} (h : a < vs.length) :
    (m.writeFrom 0 vs).read a = vs[a]? := by
  rw [Memory.read_writeFrom, if_pos (by omega)]; rfl

/-- A sequence read succeeds where every byte has a value. -/
theorem Memory.readFrom_isSome (m : Memory) (a k : Nat)
    (h : ∀ j, j < k → (m.read (a + j)).isSome = true) : (m.readFrom a k).isSome = true := by
  induction k generalizing a with
  | zero => rfl
  | succ k ih =>
    have h0 := h 0 (by omega)
    obtain ⟨v, hv⟩ := Option.isSome_iff_exists.mp h0
    have := ih (a + 1) (fun j hj => by simpa [Nat.add_assoc, Nat.add_comm 1] using h (j + 1) (by omega))
    rw [Nat.add_zero] at hv
    simp [Memory.readFrom, hv, this]

/-- A sequence read succeeds only with as many bytes as asked, each the byte at its index. -/
theorem Memory.readFrom_spec {m : Memory} {a k : Nat} {l : List Byte}
    (h : m.readFrom a k = some l) : l.length = k ∧ ∀ j, j < k → m.read (a + j) = l[j]? := by
  induction k generalizing a l with
  | zero => simp [Memory.readFrom] at h; subst h; simp
  | succ k ih =>
    rw [Memory.readFrom] at h
    split at h
    · exact absurd h (by simp)
    · next v hv =>
      obtain ⟨r, hr, rfl⟩ := Option.map_eq_some_iff.mp h
      obtain ⟨hl, hj⟩ := ih hr
      refine ⟨by simp [hl], fun j hjk => ?_⟩
      cases j with
      | zero => simpa using hv
      | succ j =>
        have := hj j (by omega)
        rw [show a + (j + 1) = a + 1 + j by omega, this]; simp

/-- Memories that agree on a range give the same sequence. -/
theorem Memory.readFrom_congr {m m' : Memory} (a k : Nat)
    (h : ∀ j, j < k → m.read (a + j) = m'.read (a + j)) : m.readFrom a k = m'.readFrom a k := by
  induction k generalizing a with
  | zero => rfl
  | succ k ih =>
    have h0 := h 0 (by omega)
    rw [Nat.add_zero] at h0
    rw [Memory.readFrom, Memory.readFrom, h0,
      ih (a + 1) (fun j hj => by simpa [Nat.add_assoc, Nat.add_comm 1] using h (j + 1) (by omega))]

end Sys2Proof.Machine
end

