-- ==== Sys2Proof/Laws/State.lean ====
section
/-! SUPPORT. One lemma per field per named update of the state, each true by definition. -/

namespace Sys2Proof.Machine

section

variable (s : State)

@[simp] theorem State.grown_cfg (m : Memory) : (s.grown m).cfg = s.cfg := rfl
@[simp] theorem State.grown_st (m : Memory) : (s.grown m).st = s.st := rfl
@[simp] theorem State.grown_ip (m : Memory) : (s.grown m).ip = s.ip := rfl
@[simp] theorem State.grown_n (m : Memory) : (s.grown m).n = s.n := rfl
@[simp] theorem State.grown_olen (m : Memory) : (s.grown m).olen = s.olen + 1 := rfl
@[simp] theorem State.grown_dialect (m : Memory) : (s.grown m).dialect = s.dialect := rfl
@[simp] theorem State.grown_cls (m : Memory) : (s.grown m).cls = s.cls := rfl
@[simp] theorem State.grown_prm (m : Memory) : (s.grown m).prm = s.prm := rfl
@[simp] theorem State.grown_litRem (m : Memory) : (s.grown m).litRem = s.litRem := rfl
@[simp] theorem State.grown_len (m : Memory) : (s.grown m).len = s.len := rfl
@[simp] theorem State.grown_ofs (m : Memory) : (s.grown m).ofs = s.ofs := rfl
@[simp] theorem State.grown_xhi (m : Memory) : (s.grown m).xhi = s.xhi := rfl
@[simp] theorem State.grown_src (m : Memory) : (s.grown m).src = s.src := rfl
@[simp] theorem State.grown_cpyRem (m : Memory) : (s.grown m).cpyRem = s.cpyRem := rfl
@[simp] theorem State.grown_err (m : Memory) : (s.grown m).err = s.err := rfl
@[simp] theorem State.grown_inMem (m : Memory) : (s.grown m).inMem = s.inMem := rfl
@[simp] theorem State.grown_outMem (m : Memory) : (s.grown m).outMem = m := rfl

@[simp] theorem State.goto_cfg (f : FsmState) : (s.goto f).cfg = s.cfg := rfl
@[simp] theorem State.goto_st (f : FsmState) : (s.goto f).st = f := rfl
@[simp] theorem State.goto_ip (f : FsmState) : (s.goto f).ip = s.ip := rfl
@[simp] theorem State.goto_n (f : FsmState) : (s.goto f).n = s.n := rfl
@[simp] theorem State.goto_olen (f : FsmState) : (s.goto f).olen = s.olen := rfl
@[simp] theorem State.goto_dialect (f : FsmState) : (s.goto f).dialect = s.dialect := rfl
@[simp] theorem State.goto_cls (f : FsmState) : (s.goto f).cls = s.cls := rfl
@[simp] theorem State.goto_prm (f : FsmState) : (s.goto f).prm = s.prm := rfl
@[simp] theorem State.goto_litRem (f : FsmState) : (s.goto f).litRem = s.litRem := rfl
@[simp] theorem State.goto_len (f : FsmState) : (s.goto f).len = s.len := rfl
@[simp] theorem State.goto_ofs (f : FsmState) : (s.goto f).ofs = s.ofs := rfl
@[simp] theorem State.goto_xhi (f : FsmState) : (s.goto f).xhi = s.xhi := rfl
@[simp] theorem State.goto_src (f : FsmState) : (s.goto f).src = s.src := rfl
@[simp] theorem State.goto_cpyRem (f : FsmState) : (s.goto f).cpyRem = s.cpyRem := rfl
@[simp] theorem State.goto_err (f : FsmState) : (s.goto f).err = s.err := rfl
@[simp] theorem State.goto_inMem (f : FsmState) : (s.goto f).inMem = s.inMem := rfl
@[simp] theorem State.goto_outMem (f : FsmState) : (s.goto f).outMem = s.outMem := rfl

@[simp] theorem State.advance_cfg : s.advance.cfg = s.cfg := rfl
@[simp] theorem State.advance_st : s.advance.st = s.st := rfl
@[simp] theorem State.advance_ip : s.advance.ip = s.ip + 1 := rfl
@[simp] theorem State.advance_n : s.advance.n = s.n := rfl
@[simp] theorem State.advance_olen : s.advance.olen = s.olen := rfl
@[simp] theorem State.advance_dialect : s.advance.dialect = s.dialect := rfl
@[simp] theorem State.advance_cls : s.advance.cls = s.cls := rfl
@[simp] theorem State.advance_prm : s.advance.prm = s.prm := rfl
@[simp] theorem State.advance_litRem : s.advance.litRem = s.litRem := rfl
@[simp] theorem State.advance_len : s.advance.len = s.len := rfl
@[simp] theorem State.advance_ofs : s.advance.ofs = s.ofs := rfl
@[simp] theorem State.advance_xhi : s.advance.xhi = s.xhi := rfl
@[simp] theorem State.advance_src : s.advance.src = s.src := rfl
@[simp] theorem State.advance_cpyRem : s.advance.cpyRem = s.cpyRem := rfl
@[simp] theorem State.advance_err : s.advance.err = s.err := rfl
@[simp] theorem State.advance_inMem : s.advance.inMem = s.inMem := rfl
@[simp] theorem State.advance_outMem : s.advance.outMem = s.outMem := rfl

@[simp] theorem State.raise_cfg (k : ErrKind) : (s.raise k).cfg = s.cfg := rfl
@[simp] theorem State.raise_st (k : ErrKind) : (s.raise k).st = .err := rfl
@[simp] theorem State.raise_ip (k : ErrKind) : (s.raise k).ip = s.ip := rfl
@[simp] theorem State.raise_n (k : ErrKind) : (s.raise k).n = s.n := rfl
@[simp] theorem State.raise_olen (k : ErrKind) : (s.raise k).olen = s.olen := rfl
@[simp] theorem State.raise_dialect (k : ErrKind) : (s.raise k).dialect = s.dialect := rfl
@[simp] theorem State.raise_cls (k : ErrKind) : (s.raise k).cls = s.cls := rfl
@[simp] theorem State.raise_prm (k : ErrKind) : (s.raise k).prm = s.prm := rfl
@[simp] theorem State.raise_litRem (k : ErrKind) : (s.raise k).litRem = s.litRem := rfl
@[simp] theorem State.raise_len (k : ErrKind) : (s.raise k).len = s.len := rfl
@[simp] theorem State.raise_ofs (k : ErrKind) : (s.raise k).ofs = s.ofs := rfl
@[simp] theorem State.raise_xhi (k : ErrKind) : (s.raise k).xhi = s.xhi := rfl
@[simp] theorem State.raise_src (k : ErrKind) : (s.raise k).src = s.src := rfl
@[simp] theorem State.raise_cpyRem (k : ErrKind) : (s.raise k).cpyRem = s.cpyRem := rfl
@[simp] theorem State.raise_err (k : ErrKind) : (s.raise k).err = k.code := rfl
@[simp] theorem State.raise_inMem (k : ErrKind) : (s.raise k).inMem = s.inMem := rfl
@[simp] theorem State.raise_outMem (k : ErrKind) : (s.raise k).outMem = s.outMem := rfl

@[simp] theorem State.latchHeader_cfg (d : Dialect) (p : BitVec 5) : (s.latchHeader d p).cfg = s.cfg := rfl
@[simp] theorem State.latchHeader_st (d : Dialect) (p : BitVec 5) : (s.latchHeader d p).st = s.st := rfl
@[simp] theorem State.latchHeader_ip (d : Dialect) (p : BitVec 5) : (s.latchHeader d p).ip = s.ip := rfl
@[simp] theorem State.latchHeader_n (d : Dialect) (p : BitVec 5) : (s.latchHeader d p).n = s.n := rfl
@[simp] theorem State.latchHeader_olen (d : Dialect) (p : BitVec 5) : (s.latchHeader d p).olen = s.olen := rfl
@[simp] theorem State.latchHeader_dialect (d : Dialect) (p : BitVec 5) : (s.latchHeader d p).dialect = d := rfl
@[simp] theorem State.latchHeader_cls (d : Dialect) (p : BitVec 5) : (s.latchHeader d p).cls = s.cls := rfl
@[simp] theorem State.latchHeader_prm (d : Dialect) (p : BitVec 5) : (s.latchHeader d p).prm = p := rfl
@[simp] theorem State.latchHeader_litRem (d : Dialect) (p : BitVec 5) : (s.latchHeader d p).litRem = s.litRem := rfl
@[simp] theorem State.latchHeader_len (d : Dialect) (p : BitVec 5) : (s.latchHeader d p).len = s.len := rfl
@[simp] theorem State.latchHeader_ofs (d : Dialect) (p : BitVec 5) : (s.latchHeader d p).ofs = s.ofs := rfl
@[simp] theorem State.latchHeader_xhi (d : Dialect) (p : BitVec 5) : (s.latchHeader d p).xhi = s.xhi := rfl
@[simp] theorem State.latchHeader_src (d : Dialect) (p : BitVec 5) : (s.latchHeader d p).src = s.src := rfl
@[simp] theorem State.latchHeader_cpyRem (d : Dialect) (p : BitVec 5) : (s.latchHeader d p).cpyRem = s.cpyRem := rfl
@[simp] theorem State.latchHeader_err (d : Dialect) (p : BitVec 5) : (s.latchHeader d p).err = s.err := rfl
@[simp] theorem State.latchHeader_inMem (d : Dialect) (p : BitVec 5) : (s.latchHeader d p).inMem = s.inMem := rfl
@[simp] theorem State.latchHeader_outMem (d : Dialect) (p : BitVec 5) : (s.latchHeader d p).outMem = s.outMem := rfl

@[simp] theorem State.latchControl_cfg (c : BitVec 3) (p : BitVec 5) : (s.latchControl c p).cfg = s.cfg := rfl
@[simp] theorem State.latchControl_st (c : BitVec 3) (p : BitVec 5) : (s.latchControl c p).st = s.st := rfl
@[simp] theorem State.latchControl_ip (c : BitVec 3) (p : BitVec 5) : (s.latchControl c p).ip = s.ip := rfl
@[simp] theorem State.latchControl_n (c : BitVec 3) (p : BitVec 5) : (s.latchControl c p).n = s.n := rfl
@[simp] theorem State.latchControl_olen (c : BitVec 3) (p : BitVec 5) : (s.latchControl c p).olen = s.olen := rfl
@[simp] theorem State.latchControl_dialect (c : BitVec 3) (p : BitVec 5) : (s.latchControl c p).dialect = s.dialect := rfl
@[simp] theorem State.latchControl_cls (c : BitVec 3) (p : BitVec 5) : (s.latchControl c p).cls = c := rfl
@[simp] theorem State.latchControl_prm (c : BitVec 3) (p : BitVec 5) : (s.latchControl c p).prm = p := rfl
@[simp] theorem State.latchControl_litRem (c : BitVec 3) (p : BitVec 5) : (s.latchControl c p).litRem = s.litRem := rfl
@[simp] theorem State.latchControl_len (c : BitVec 3) (p : BitVec 5) : (s.latchControl c p).len = s.len := rfl
@[simp] theorem State.latchControl_ofs (c : BitVec 3) (p : BitVec 5) : (s.latchControl c p).ofs = s.ofs := rfl
@[simp] theorem State.latchControl_xhi (c : BitVec 3) (p : BitVec 5) : (s.latchControl c p).xhi = s.xhi := rfl
@[simp] theorem State.latchControl_src (c : BitVec 3) (p : BitVec 5) : (s.latchControl c p).src = s.src := rfl
@[simp] theorem State.latchControl_cpyRem (c : BitVec 3) (p : BitVec 5) : (s.latchControl c p).cpyRem = s.cpyRem := rfl
@[simp] theorem State.latchControl_err (c : BitVec 3) (p : BitVec 5) : (s.latchControl c p).err = s.err := rfl
@[simp] theorem State.latchControl_inMem (c : BitVec 3) (p : BitVec 5) : (s.latchControl c p).inMem = s.inMem := rfl
@[simp] theorem State.latchControl_outMem (c : BitVec 3) (p : BitVec 5) : (s.latchControl c p).outMem = s.outMem := rfl

@[simp] theorem State.setLen_cfg (x : Nat) : (s.setLen x).cfg = s.cfg := rfl
@[simp] theorem State.setLen_st (x : Nat) : (s.setLen x).st = s.st := rfl
@[simp] theorem State.setLen_ip (x : Nat) : (s.setLen x).ip = s.ip := rfl
@[simp] theorem State.setLen_n (x : Nat) : (s.setLen x).n = s.n := rfl
@[simp] theorem State.setLen_olen (x : Nat) : (s.setLen x).olen = s.olen := rfl
@[simp] theorem State.setLen_dialect (x : Nat) : (s.setLen x).dialect = s.dialect := rfl
@[simp] theorem State.setLen_cls (x : Nat) : (s.setLen x).cls = s.cls := rfl
@[simp] theorem State.setLen_prm (x : Nat) : (s.setLen x).prm = s.prm := rfl
@[simp] theorem State.setLen_litRem (x : Nat) : (s.setLen x).litRem = s.litRem := rfl
@[simp] theorem State.setLen_len (x : Nat) : (s.setLen x).len = s.cfg.saturate x := rfl
@[simp] theorem State.setLen_ofs (x : Nat) : (s.setLen x).ofs = s.ofs := rfl
@[simp] theorem State.setLen_xhi (x : Nat) : (s.setLen x).xhi = s.xhi := rfl
@[simp] theorem State.setLen_src (x : Nat) : (s.setLen x).src = s.src := rfl
@[simp] theorem State.setLen_cpyRem (x : Nat) : (s.setLen x).cpyRem = s.cpyRem := rfl
@[simp] theorem State.setLen_err (x : Nat) : (s.setLen x).err = s.err := rfl
@[simp] theorem State.setLen_inMem (x : Nat) : (s.setLen x).inMem = s.inMem := rfl
@[simp] theorem State.setLen_outMem (x : Nat) : (s.setLen x).outMem = s.outMem := rfl

@[simp] theorem State.setOfs_cfg (v : BitVec 17) : (s.setOfs v).cfg = s.cfg := rfl
@[simp] theorem State.setOfs_st (v : BitVec 17) : (s.setOfs v).st = s.st := rfl
@[simp] theorem State.setOfs_ip (v : BitVec 17) : (s.setOfs v).ip = s.ip := rfl
@[simp] theorem State.setOfs_n (v : BitVec 17) : (s.setOfs v).n = s.n := rfl
@[simp] theorem State.setOfs_olen (v : BitVec 17) : (s.setOfs v).olen = s.olen := rfl
@[simp] theorem State.setOfs_dialect (v : BitVec 17) : (s.setOfs v).dialect = s.dialect := rfl
@[simp] theorem State.setOfs_cls (v : BitVec 17) : (s.setOfs v).cls = s.cls := rfl
@[simp] theorem State.setOfs_prm (v : BitVec 17) : (s.setOfs v).prm = s.prm := rfl
@[simp] theorem State.setOfs_litRem (v : BitVec 17) : (s.setOfs v).litRem = s.litRem := rfl
@[simp] theorem State.setOfs_len (v : BitVec 17) : (s.setOfs v).len = s.len := rfl
@[simp] theorem State.setOfs_ofs (v : BitVec 17) : (s.setOfs v).ofs = v := rfl
@[simp] theorem State.setOfs_xhi (v : BitVec 17) : (s.setOfs v).xhi = s.xhi := rfl
@[simp] theorem State.setOfs_src (v : BitVec 17) : (s.setOfs v).src = s.src := rfl
@[simp] theorem State.setOfs_cpyRem (v : BitVec 17) : (s.setOfs v).cpyRem = s.cpyRem := rfl
@[simp] theorem State.setOfs_err (v : BitVec 17) : (s.setOfs v).err = s.err := rfl
@[simp] theorem State.setOfs_inMem (v : BitVec 17) : (s.setOfs v).inMem = s.inMem := rfl
@[simp] theorem State.setOfs_outMem (v : BitVec 17) : (s.setOfs v).outMem = s.outMem := rfl

@[simp] theorem State.setXhi_cfg (v : Byte) : (s.setXhi v).cfg = s.cfg := rfl
@[simp] theorem State.setXhi_st (v : Byte) : (s.setXhi v).st = s.st := rfl
@[simp] theorem State.setXhi_ip (v : Byte) : (s.setXhi v).ip = s.ip := rfl
@[simp] theorem State.setXhi_n (v : Byte) : (s.setXhi v).n = s.n := rfl
@[simp] theorem State.setXhi_olen (v : Byte) : (s.setXhi v).olen = s.olen := rfl
@[simp] theorem State.setXhi_dialect (v : Byte) : (s.setXhi v).dialect = s.dialect := rfl
@[simp] theorem State.setXhi_cls (v : Byte) : (s.setXhi v).cls = s.cls := rfl
@[simp] theorem State.setXhi_prm (v : Byte) : (s.setXhi v).prm = s.prm := rfl
@[simp] theorem State.setXhi_litRem (v : Byte) : (s.setXhi v).litRem = s.litRem := rfl
@[simp] theorem State.setXhi_len (v : Byte) : (s.setXhi v).len = s.len := rfl
@[simp] theorem State.setXhi_ofs (v : Byte) : (s.setXhi v).ofs = s.ofs := rfl
@[simp] theorem State.setXhi_xhi (v : Byte) : (s.setXhi v).xhi = v := rfl
@[simp] theorem State.setXhi_src (v : Byte) : (s.setXhi v).src = s.src := rfl
@[simp] theorem State.setXhi_cpyRem (v : Byte) : (s.setXhi v).cpyRem = s.cpyRem := rfl
@[simp] theorem State.setXhi_err (v : Byte) : (s.setXhi v).err = s.err := rfl
@[simp] theorem State.setXhi_inMem (v : Byte) : (s.setXhi v).inMem = s.inMem := rfl
@[simp] theorem State.setXhi_outMem (v : Byte) : (s.setXhi v).outMem = s.outMem := rfl

@[simp] theorem State.beginLiteral_cfg (l : Nat) : (s.beginLiteral l).cfg = s.cfg := rfl
@[simp] theorem State.beginLiteral_st (l : Nat) : (s.beginLiteral l).st = .lit := rfl
@[simp] theorem State.beginLiteral_ip (l : Nat) : (s.beginLiteral l).ip = s.ip := rfl
@[simp] theorem State.beginLiteral_n (l : Nat) : (s.beginLiteral l).n = s.n := rfl
@[simp] theorem State.beginLiteral_olen (l : Nat) : (s.beginLiteral l).olen = s.olen := rfl
@[simp] theorem State.beginLiteral_dialect (l : Nat) : (s.beginLiteral l).dialect = s.dialect := rfl
@[simp] theorem State.beginLiteral_cls (l : Nat) : (s.beginLiteral l).cls = s.cls := rfl
@[simp] theorem State.beginLiteral_prm (l : Nat) : (s.beginLiteral l).prm = s.prm := rfl
@[simp] theorem State.beginLiteral_litRem (l : Nat) : (s.beginLiteral l).litRem = BitVec.ofNat 6 l := rfl
@[simp] theorem State.beginLiteral_len (l : Nat) : (s.beginLiteral l).len = s.len := rfl
@[simp] theorem State.beginLiteral_ofs (l : Nat) : (s.beginLiteral l).ofs = s.ofs := rfl
@[simp] theorem State.beginLiteral_xhi (l : Nat) : (s.beginLiteral l).xhi = s.xhi := rfl
@[simp] theorem State.beginLiteral_src (l : Nat) : (s.beginLiteral l).src = s.src := rfl
@[simp] theorem State.beginLiteral_cpyRem (l : Nat) : (s.beginLiteral l).cpyRem = s.cpyRem := rfl
@[simp] theorem State.beginLiteral_err (l : Nat) : (s.beginLiteral l).err = s.err := rfl
@[simp] theorem State.beginLiteral_inMem (l : Nat) : (s.beginLiteral l).inMem = s.inMem := rfl
@[simp] theorem State.beginLiteral_outMem (l : Nat) : (s.beginLiteral l).outMem = s.outMem := rfl

@[simp] theorem State.beginCopy_cfg (d : Nat) : (s.beginCopy d).cfg = s.cfg := rfl
@[simp] theorem State.beginCopy_st (d : Nat) : (s.beginCopy d).st = .copy := rfl
@[simp] theorem State.beginCopy_ip (d : Nat) : (s.beginCopy d).ip = s.ip := rfl
@[simp] theorem State.beginCopy_n (d : Nat) : (s.beginCopy d).n = s.n := rfl
@[simp] theorem State.beginCopy_olen (d : Nat) : (s.beginCopy d).olen = s.olen := rfl
@[simp] theorem State.beginCopy_dialect (d : Nat) : (s.beginCopy d).dialect = s.dialect := rfl
@[simp] theorem State.beginCopy_cls (d : Nat) : (s.beginCopy d).cls = s.cls := rfl
@[simp] theorem State.beginCopy_prm (d : Nat) : (s.beginCopy d).prm = s.prm := rfl
@[simp] theorem State.beginCopy_litRem (d : Nat) : (s.beginCopy d).litRem = s.litRem := rfl
@[simp] theorem State.beginCopy_len (d : Nat) : (s.beginCopy d).len = s.len := rfl
@[simp] theorem State.beginCopy_ofs (d : Nat) : (s.beginCopy d).ofs = s.ofs := rfl
@[simp] theorem State.beginCopy_xhi (d : Nat) : (s.beginCopy d).xhi = s.xhi := rfl
@[simp] theorem State.beginCopy_src (d : Nat) : (s.beginCopy d).src = s.olen - d := rfl
@[simp] theorem State.beginCopy_cpyRem (d : Nat) : (s.beginCopy d).cpyRem = s.len := rfl
@[simp] theorem State.beginCopy_err (d : Nat) : (s.beginCopy d).err = s.err := rfl
@[simp] theorem State.beginCopy_inMem (d : Nat) : (s.beginCopy d).inMem = s.inMem := rfl
@[simp] theorem State.beginCopy_outMem (d : Nat) : (s.beginCopy d).outMem = s.outMem := rfl

@[simp] theorem State.countLiteral_cfg : s.countLiteral.cfg = s.cfg := rfl
@[simp] theorem State.countLiteral_st : s.countLiteral.st = if s.litRem - 1#6 = 0#6 then .ctrl else s.st := rfl
@[simp] theorem State.countLiteral_ip : s.countLiteral.ip = s.ip := rfl
@[simp] theorem State.countLiteral_n : s.countLiteral.n = s.n := rfl
@[simp] theorem State.countLiteral_olen : s.countLiteral.olen = s.olen := rfl
@[simp] theorem State.countLiteral_dialect : s.countLiteral.dialect = s.dialect := rfl
@[simp] theorem State.countLiteral_cls : s.countLiteral.cls = s.cls := rfl
@[simp] theorem State.countLiteral_prm : s.countLiteral.prm = s.prm := rfl
@[simp] theorem State.countLiteral_litRem : s.countLiteral.litRem = s.litRem - 1#6 := rfl
@[simp] theorem State.countLiteral_len : s.countLiteral.len = s.len := rfl
@[simp] theorem State.countLiteral_ofs : s.countLiteral.ofs = s.ofs := rfl
@[simp] theorem State.countLiteral_xhi : s.countLiteral.xhi = s.xhi := rfl
@[simp] theorem State.countLiteral_src : s.countLiteral.src = s.src := rfl
@[simp] theorem State.countLiteral_cpyRem : s.countLiteral.cpyRem = s.cpyRem := rfl
@[simp] theorem State.countLiteral_err : s.countLiteral.err = s.err := rfl
@[simp] theorem State.countLiteral_inMem : s.countLiteral.inMem = s.inMem := rfl
@[simp] theorem State.countLiteral_outMem : s.countLiteral.outMem = s.outMem := rfl

@[simp] theorem State.countCopy_cfg : s.countCopy.cfg = s.cfg := rfl
@[simp] theorem State.countCopy_st : s.countCopy.st = if s.cpyRem - 1 = 0 then .ctrl else s.st := rfl
@[simp] theorem State.countCopy_ip : s.countCopy.ip = s.ip := rfl
@[simp] theorem State.countCopy_n : s.countCopy.n = s.n := rfl
@[simp] theorem State.countCopy_olen : s.countCopy.olen = s.olen := rfl
@[simp] theorem State.countCopy_dialect : s.countCopy.dialect = s.dialect := rfl
@[simp] theorem State.countCopy_cls : s.countCopy.cls = s.cls := rfl
@[simp] theorem State.countCopy_prm : s.countCopy.prm = s.prm := rfl
@[simp] theorem State.countCopy_litRem : s.countCopy.litRem = s.litRem := rfl
@[simp] theorem State.countCopy_len : s.countCopy.len = s.len := rfl
@[simp] theorem State.countCopy_ofs : s.countCopy.ofs = s.ofs := rfl
@[simp] theorem State.countCopy_xhi : s.countCopy.xhi = s.xhi := rfl
@[simp] theorem State.countCopy_src : s.countCopy.src = s.src + 1 := rfl
@[simp] theorem State.countCopy_cpyRem : s.countCopy.cpyRem = s.cpyRem - 1 := rfl
@[simp] theorem State.countCopy_err : s.countCopy.err = s.err := rfl
@[simp] theorem State.countCopy_inMem : s.countCopy.inMem = s.inMem := rfl
@[simp] theorem State.countCopy_outMem : s.countCopy.outMem = s.outMem := rfl

@[simp] theorem State.load_cfg (b : List Byte) : (s.load b).cfg = s.cfg := rfl
@[simp] theorem State.load_st (b : List Byte) : (s.load b).st = .hdr := rfl
@[simp] theorem State.load_ip (b : List Byte) : (s.load b).ip = 0 := rfl
@[simp] theorem State.load_n (b : List Byte) : (s.load b).n = b.length := rfl
@[simp] theorem State.load_olen (b : List Byte) : (s.load b).olen = 0 := rfl
@[simp] theorem State.load_dialect (b : List Byte) : (s.load b).dialect = s.dialect := rfl
@[simp] theorem State.load_cls (b : List Byte) : (s.load b).cls = s.cls := rfl
@[simp] theorem State.load_prm (b : List Byte) : (s.load b).prm = s.prm := rfl
@[simp] theorem State.load_litRem (b : List Byte) : (s.load b).litRem = s.litRem := rfl
@[simp] theorem State.load_len (b : List Byte) : (s.load b).len = s.len := rfl
@[simp] theorem State.load_ofs (b : List Byte) : (s.load b).ofs = s.ofs := rfl
@[simp] theorem State.load_xhi (b : List Byte) : (s.load b).xhi = s.xhi := rfl
@[simp] theorem State.load_src (b : List Byte) : (s.load b).src = s.src := rfl
@[simp] theorem State.load_cpyRem (b : List Byte) : (s.load b).cpyRem = s.cpyRem := rfl
@[simp] theorem State.load_err (b : List Byte) : (s.load b).err = 0#3 := rfl
@[simp] theorem State.load_inMem (b : List Byte) : (s.load b).inMem = s.inMem.writeFrom 0 b := rfl
@[simp] theorem State.load_outMem (b : List Byte) : (s.load b).outMem = s.outMem := rfl

end

end Sys2Proof.Machine
end

