-- ==== Sys2Proof/Laws/Ops.lean ====
section
/-! SUPPORT. What each shared operation can do, once. -/

namespace Sys2Proof

@[simp] theorem Config.exceeds_zero (c : Config) : c.exceeds 0 = false := by
  unfold Config.exceeds capacityExceeded; split <;> simp

/-- A smaller output fits where a larger one does. -/
theorem Config.exceeds_mono {c : Config} {j k : Nat} (h : c.exceeds k = false) (hjk : j ≤ k) :
    c.exceeds j = false := by
  unfold Config.exceeds capacityExceeded at *
  split at h
  · rfl
  · simp at *; omega

/-- Saturation never raises a length. -/
theorem Config.saturate_le (c : Config) (x : Nat) : c.saturate x ≤ x := by
  unfold Config.saturate; split
  · exact Nat.le_refl _
  · exact Nat.min_le_left _ _

theorem Config.saturate_mono (c : Config) {x y : Nat} (h : x ≤ y) : c.saturate x ≤ c.saturate y := by
  unfold Config.saturate; split
  · exact h
  · omega

/-- Saturation is not observable where an output with the saturated length fits: it is then the
length itself (decision D12). -/
theorem Config.saturate_of_fits {c : Config} {x k : Nat} (hl : c.legal = true)
    (h : c.exceeds (k + c.saturate x) = false) : c.saturate x = x := by
  unfold Config.legal at hl
  unfold Config.exceeds capacityExceeded Config.saturate at *
  split at hl <;> simp_all
  omega

/-- A saturated length overflows the capacity exactly where the length does (decision D12). -/
theorem Config.exceeds_saturate {c : Config} (x k : Nat) (hl : c.legal = true) :
    c.exceeds (k + c.saturate x) = c.exceeds (k + x) := by
  unfold Config.legal at hl
  unfold Config.exceeds capacityExceeded Config.saturate at *
  split at hl <;> simp_all
  omega

namespace Machine

/-- An IN read succeeds exactly with a written byte below `N`. -/
theorem State.inRead_ok_iff {s : State} {a : Nat} {b : Byte} :
    s.inRead a = .ok b ↔ a < s.n ∧ s.inMem.read a = some b := by
  unfold State.inRead
  split
  · next h =>
    split
    · next v hv => simp [h, hv]
    · next hv => simp [hv]
  · next h => simp [h]

/-- An OUT read succeeds exactly with a written byte below `olen`. -/
theorem State.outRead_ok_iff {s : State} {a : Nat} {b : Byte} :
    s.outRead a = .ok b ↔ a < s.olen ∧ s.outMem.read a = some b := by
  unfold State.outRead
  split
  · next h =>
    split
    · next v hv => simp [h, hv]
    · next hv => simp [hv]
  · next h => simp [h]

/-- An append succeeds exactly where one more byte fits, and writes index `olen`. -/
theorem State.outAppend_ok_iff {s t : State} {v : Byte} :
    s.outAppend v = .ok t ↔
      s.cfg.exceeds (s.olen + 1) = false ∧ t = s.grown (s.outMem.write s.olen v) := by
  unfold State.outAppend
  split
  · next h => simp [h]
  · next h => simp [h, eq_comm]

/-- Everything literal setup can do (40_classifier R74, 60_exceptions R123). -/
theorem litSetup_cases (p : BitVec 5) (s : State) :
    (s.n - s.ip < literalLength p ∧ litSetup p s = s.raise .truncatedInput) ∨
    (literalLength p ≤ s.n - s.ip ∧ s.cfg.exceeds (s.olen + literalLength p) = true ∧
      litSetup p s = s.raise .outputOverflow) ∨
    (literalLength p ≤ s.n - s.ip ∧ s.cfg.exceeds (s.olen + literalLength p) = false ∧
      litSetup p s = s.beginLiteral (literalLength p)) := by
  unfold litSetup
  split
  · next h => exact .inl ⟨h, rfl⟩
  · next h =>
    split
    · next hc => exact .inr (.inl ⟨by omega, hc, rfl⟩)
    · next hc => exact .inr (.inr ⟨by omega, by simpa using hc, rfl⟩)

/-- Everything `validate` can do (41_resolver R88 to R90, 60_exceptions R123). -/
theorem validate_cases (s : State) :
    (s.olen < finalOffset s.ofs ∧ validate s = s.raise .invalidOffset) ∨
    (finalOffset s.ofs ≤ s.olen ∧ s.cfg.exceeds (s.olen + s.len) = true ∧
      validate s = s.raise .outputOverflow) ∨
    (finalOffset s.ofs ≤ s.olen ∧ s.cfg.exceeds (s.olen + s.len) = false ∧
      validate s = s.beginCopy (finalOffset s.ofs)) := by
  unfold validate
  split
  · next h => exact .inl ⟨h, rfl⟩
  · next h =>
    split
    · next hc => exact .inr (.inl ⟨by omega, hc, rfl⟩)
    · next hc => exact .inr (.inr ⟨by omega, by simpa using hc, rfl⟩)

/-- Everything the literal transfer can do when it does not stop (40_classifier R77). -/
theorem literalStep_next {s t : State} (h : literalStep s = .next t) :
    s.litRem ≠ 0#6 ∧ ∃ v, s.inRead s.ip = .ok v ∧ s.cfg.exceeds (s.olen + 1) = false ∧
      t = (s.advance.grown (s.outMem.write s.olen v)).countLiteral := by
  unfold literalStep at h
  split at h
  · cases h
  · next hz =>
    split at h
    · cases h
    · next v hv =>
      split at h
      · cases h
      · next u hu =>
        obtain ⟨hc, rfl⟩ := State.outAppend_ok_iff.mp hu
        cases h
        exact ⟨hz, v, hv, hc, rfl⟩

/-- The literal transfer runs where a byte remains, is present and fits. -/
theorem literalStep_of {s : State} {v : Byte} (hz : s.litRem ≠ 0#6) (hv : s.inRead s.ip = .ok v)
    (hc : s.cfg.exceeds (s.olen + 1) = false) :
    literalStep s = .next (s.advance.grown (s.outMem.write s.olen v)).countLiteral := by
  have hu : s.advance.outAppend v = .ok (s.advance.grown (s.outMem.write s.olen v)) :=
    State.outAppend_ok_iff.mpr ⟨hc, rfl⟩
  simp [literalStep, hz, hv, hu]

end Machine

end Sys2Proof
end

