-- ==== Sys2Proof/Laws/PerInstr.lean ====
section
/-! SUPPORT. Per-instruction facts about the syntax: every instruction's byte meets the mask and the
pattern of its row of spec/opcode_table.json. -/

namespace Sys2Proof.Laws.TableRow

/-- The row OFS_FAR_T1, byte by byte. -/
def farRow : FarByte → Byte × Byte
  | .trigger => (0xFF#8, 0xFF#8)
  | .extHigh _ => (0x00#8, 0x00#8)
  | .extLow _ => (0x00#8, 0x00#8)

/-- `mask` and `match` of an instruction's row. The row OFS_FAR_T1 gives its first byte; its other
two bytes are free. -/
def row : Instr → Byte × Byte
  | .hdrT0 _ => (0xE0#8, 0x00#8)
  | .hdrT1 _ => (0xE0#8, 0x20#8)
  | .hdrInvalid2 _ => (0xE0#8, 0x40#8)
  | .hdrInvalid3 _ => (0xE0#8, 0x60#8)
  | .hdrInvalid4 _ => (0xE0#8, 0x80#8)
  | .hdrInvalid5 _ => (0xE0#8, 0xA0#8)
  | .hdrInvalid6 _ => (0xE0#8, 0xC0#8)
  | .hdrInvalid7 _ => (0xE0#8, 0xE0#8)
  | .lit _ => (0xE0#8, 0x00#8)
  | .brefC1 _ => (0xE0#8, 0x20#8)
  | .brefC2 _ => (0xE0#8, 0x40#8)
  | .brefC3 _ => (0xE0#8, 0x60#8)
  | .brefC4 _ => (0xE0#8, 0x80#8)
  | .brefC5 _ => (0xE0#8, 0xA0#8)
  | .brefC6 _ => (0xE0#8, 0xC0#8)
  | .brefC7T0 _ => (0xE0#8, 0xE0#8)
  | .brefC7T1 _ => (0xE0#8, 0xE0#8)
  | .lextT0 _ => (0x00#8, 0x00#8)
  | .lextT1More => (0xFF#8, 0xFF#8)
  | .lextT1End _ => (0x00#8, 0x00#8)
  | .ofsNear _ => (0x00#8, 0x00#8)
  | .ofsFarT1 b => farRow b

/-- The instruction's byte meets its row. -/
def Statement (i : Instr) : Prop := encodeByte i &&& (row i).1 = (row i).2

theorem hdrT0 (p : BitVec 5) : Statement (.hdrT0 p) := by revert p; unfold Statement; decide
theorem hdrT1 (p : BitVec 5) : Statement (.hdrT1 p) := by revert p; unfold Statement; decide
theorem hdrInvalid2 (p : BitVec 5) : Statement (.hdrInvalid2 p) := by revert p; unfold Statement; decide
theorem hdrInvalid3 (p : BitVec 5) : Statement (.hdrInvalid3 p) := by revert p; unfold Statement; decide
theorem hdrInvalid4 (p : BitVec 5) : Statement (.hdrInvalid4 p) := by revert p; unfold Statement; decide
theorem hdrInvalid5 (p : BitVec 5) : Statement (.hdrInvalid5 p) := by revert p; unfold Statement; decide
theorem hdrInvalid6 (p : BitVec 5) : Statement (.hdrInvalid6 p) := by revert p; unfold Statement; decide
theorem hdrInvalid7 (p : BitVec 5) : Statement (.hdrInvalid7 p) := by revert p; unfold Statement; decide
theorem lit (p : BitVec 5) : Statement (.lit p) := by revert p; unfold Statement; decide
theorem brefC1 (p : BitVec 5) : Statement (.brefC1 p) := by revert p; unfold Statement; decide
theorem brefC2 (p : BitVec 5) : Statement (.brefC2 p) := by revert p; unfold Statement; decide
theorem brefC3 (p : BitVec 5) : Statement (.brefC3 p) := by revert p; unfold Statement; decide
theorem brefC4 (p : BitVec 5) : Statement (.brefC4 p) := by revert p; unfold Statement; decide
theorem brefC5 (p : BitVec 5) : Statement (.brefC5 p) := by revert p; unfold Statement; decide
theorem brefC6 (p : BitVec 5) : Statement (.brefC6 p) := by revert p; unfold Statement; decide
theorem brefC7T0 (p : BitVec 5) : Statement (.brefC7T0 p) := by revert p; unfold Statement; decide
theorem brefC7T1 (p : BitVec 5) : Statement (.brefC7T1 p) := by revert p; unfold Statement; decide
theorem lextT0 (e : Byte) : Statement (.lextT0 e) := by simp [Statement, row]
theorem lextT1More : Statement .lextT1More := by unfold Statement; decide
theorem lextT1End (e : Byte) : Statement (.lextT1End e) := by simp [Statement, row]
theorem ofsNear (lo : Byte) : Statement (.ofsNear lo) := by simp [Statement, row]
theorem ofsFarT1 (b : FarByte) : Statement (.ofsFarT1 b) := by
  cases b with
  | trigger => unfold Statement; decide
  | extHigh xh => simp [Statement, row, farRow]
  | extLow xl => simp [Statement, row, farRow]

end Sys2Proof.Laws.TableRow
end

