-- ==== Sys2Proof/Laws/Safety.lean ====
section
/-! SUPPORT. The small facts of the notions of Safety.lean. -/

namespace Sys2Proof.Machine

/-- Fitting the capacity is the machine's own capacity test failing. -/
theorem State.fits_iff {s : State} {k : Nat} : s.Fits k ↔ s.cfg.exceeds (s.olen + k) = false := by
  unfold State.Fits Config.exceeds capacityExceeded
  cases s.cfg.outMax <;> simp

/-- Not fitting is the machine's capacity test succeeding. -/
theorem State.not_fits_iff {s : State} {k : Nat} :
    ¬ s.Fits k ↔ s.cfg.exceeds (s.olen + k) = true := by
  rw [State.fits_iff]; simp

end Sys2Proof.Machine
end

