-- ==== Sys2Proof/Laws/Step.lean ====
section
/-! SUPPORT. What a step can do, once: the copy step, the meaning of a decoded byte in each context,
and the inversion of `step`. Also the basic facts of `run`. -/

namespace Sys2Proof.Machine

/-- Everything the copy step can do when it does not stop (42_copy R92). -/
theorem copyStep_next {s t : State} (h : copyStep s = .next t) :
    s.cpyRem ≠ 0 ∧ ∃ v, s.outRead s.src = .ok v ∧ s.cfg.exceeds (s.olen + 1) = false ∧
      t = (s.grown (s.outMem.write s.olen v)).countCopy := by
  unfold copyStep at h
  split at h
  · cases h
  · next hz =>
    split at h
    · cases h
    · next v hv =>
      split at h
      · cases h
      · next u hu =>
        obtain ⟨hc, rfl⟩ := State.outAppend_ok_iff.mp hu
        cases h
        exact ⟨hz, v, hv, hc, rfl⟩

/-- The copy step runs where a byte remains, its source is present and it fits. -/
theorem copyStep_of {s : State} {v : Byte} (hz : s.cpyRem ≠ 0) (hv : s.outRead s.src = .ok v)
    (hc : s.cfg.exceeds (s.olen + 1) = false) :
    copyStep s = .next (s.grown (s.outMem.write s.olen v)).countCopy := by
  have hu : s.outAppend v = .ok (s.grown (s.outMem.write s.olen v)) :=
    State.outAppend_ok_iff.mpr ⟨hc, rfl⟩
  simp [copyStep, hz, hv, hu]

/-- The meaning of a header byte (40_classifier R70). -/
theorem exec_header (b : Byte) (s : State) :
    exec (decodeByte .header b) s = .next
      (if classField b = 0#3 then headerStep .typeZero (paramField b) s
       else if classField b = 1#3 then headerStep .typeOne (paramField b) s
       else headerInvalid s) := by
  simp only [decodeByte, decodeHeader]
  generalize classField b = c
  generalize paramField b = p
  have hc : c.toNat < 8 := c.isLt
  simp only [← BitVec.toNat_inj]
  generalize c.toNat = n at *
  interval_cases n <;> rfl

/-- The meaning of a control byte (40_classifier R75, R78). -/
theorem exec_control (d : Dialect) (b : Byte) (s : State) :
    exec (decodeByte (.control d) b) s = .next
      (if classField b = 0#3 then litSetup (paramField b) (s.advance.latchControl 0#3 (paramField b))
       else brefStep (classField b) (paramField b) s) := by
  have key : ∀ c : BitVec 3, ∀ p : BitVec 5, ∀ i : Instr,
      i = (match c.toNat with
        | 0 => .lit p | 1 => .brefC1 p | 2 => .brefC2 p | 3 => .brefC3 p | 4 => .brefC4 p
        | 5 => .brefC5 p | 6 => .brefC6 p
        | _ => match d with | .typeZero => .brefC7T0 p | .typeOne => .brefC7T1 p) →
      exec i s = .next
        (if c = 0#3 then litSetup p (s.advance.latchControl 0#3 p) else brefStep c p s) := by
    intro c p i hi
    obtain ⟨n, hn⟩ := c
    subst hi
    change n < 8 at hn
    interval_cases n <;> first | rfl | (cases d <;> rfl)
  exact key (classField b) (paramField b) _ rfl

/-- The meaning of a length-extension byte (41_resolver R83). -/
theorem exec_lengthExt (d : Dialect) (b : Byte) (s : State) :
    exec (decodeByte (.lengthExt d) b) s = .next
      (extendStep b (if d = .typeZero ∨ b ≠ 0xFF#8 then .ofs else .lext) s) := by
  cases d with
  | typeZero => simp [decodeByte, decodeLengthExt, exec, execLextT0]
  | typeOne =>
    by_cases hb : b = 0xFF#8
    · subst hb; simp [decodeByte, decodeLengthExt, exec, execLextT1More]
    · simp [decodeByte, decodeLengthExt, exec, execLextT1End, hb]

/-- The meaning of an offset low byte (41_resolver R84). -/
theorem exec_offset (d : Dialect) (p : BitVec 5) (b : Byte) (s : State) :
    exec (decodeByte (.offset d p) b) s = .next
      (if isFarTrigger d p b then farTrigger s
       else validate (s.advance.setOfs (rawOffset s.prm b))) := by
  simp only [decodeByte, decodeOffset]
  split <;> rfl

/-- `exec` always answers a next state. -/
theorem exec_next (i : Instr) (s : State) : ∃ t, exec i s = .next t := by
  cases i with
  | ofsFarT1 b => cases b <;> exact ⟨_, rfl⟩
  | _ => exact ⟨_, rfl⟩

/-- Everything a step can do when it does not stop (43_decode_loop R98, R99). -/
theorem step_cases {s t : State} (h : step s = .next t) :
    ((s.st = .idle ∨ s.st = .done ∨ s.st = .err) ∧ t = s) ∨
    (s.st = .lit ∧ literalStep s = .next t) ∨
    (s.st = .copy ∧ copyStep s = .next t) ∨
    (∃ c, s.context = some c ∧ s.ip = s.n ∧ t = endOfInput s) ∨
    (∃ c b, s.context = some c ∧ s.ip ≠ s.n ∧ s.inRead s.ip = .ok b ∧
      exec (decodeByte c b) s = .next t) := by
  have byteCase : ∀ c, s.context = some c →
      (∃ c, s.context = some c ∧ s.ip = s.n ∧ t = endOfInput s) ∨
      (∃ c b, s.context = some c ∧ s.ip ≠ s.n ∧ s.inRead s.ip = .ok b ∧
        exec (decodeByte c b) s = .next t) := by
    intro c hc
    simp only [step, State.fetch, hc, State.fetchByte] at h
    by_cases he : s.ip = s.n
    · simp only [he, if_true] at h; cases h; exact .inl ⟨c, hc, he, rfl⟩
    · simp only [he, if_false] at h
      cases hr : s.inRead s.ip with
      | error f => simp [hr] at h
      | ok b => simp only [hr] at h; exact .inr ⟨c, b, hc, he, rfl, h⟩
  cases hst : s.st with
  | idle => simp [step, State.fetch, State.context, hst] at h; exact .inl ⟨.inl rfl, h.symm⟩
  | done => simp [step, State.fetch, State.context, hst] at h; exact .inl ⟨.inr (.inl rfl), h.symm⟩
  | err => simp [step, State.fetch, State.context, hst] at h; exact .inl ⟨.inr (.inr rfl), h.symm⟩
  | lit => simp only [step, State.fetch, State.context, hst] at h; exact .inr (.inl ⟨rfl, h⟩)
  | copy => simp only [step, State.fetch, State.context, hst] at h; exact .inr (.inr (.inl ⟨rfl, h⟩))
  | hdr => exact .inr (.inr (.inr (byteCase .header (by simp [State.context, hst]))))
  | ctrl => exact .inr (.inr (.inr (byteCase (.control s.dialect) (by simp [State.context, hst]))))
  | lext => exact .inr (.inr (.inr (byteCase (.lengthExt s.dialect) (by simp [State.context, hst]))))
  | ofs => exact .inr (.inr (.inr (byteCase (.offset s.dialect s.prm) (by simp [State.context, hst]))))
  | xhi => exact .inr (.inr (.inr (byteCase .farHigh (by simp [State.context, hst]))))
  | xlo => exact .inr (.inr (.inr (byteCase .farLow (by simp [State.context, hst]))))

@[simp] theorem run_zero (s : State) : run 0 s = .next s := rfl

theorem run_succ_of_step {k : Nat} {s t : State} (h : step s = .next t) :
    run (k + 1) s = run k t := by simp [run, h]

/-- A run of `j + k` steps is a run of `j` steps and then one of `k`. -/
theorem run_add {j k : Nat} {s t : State} (h : run j s = .next t) : run (j + k) s = run k t := by
  induction j generalizing s with
  | zero => cases h; simp
  | succ j ih =>
    rw [run] at h
    split at h
    · next u hu => rw [Nat.succ_add, run_succ_of_step hu]; exact ih h
    · cases h
    · cases h

end Sys2Proof.Machine
end

