-- ==== Sys2Proof/Tests/Slice0.lean ====
section
/-! SUPPORT. The model's own tests: ill-formed terms that the checks refuse, decodings of words written
out from 30_encoding, one-step results worked out in 95_test_vectors, and for every statement with
hypotheses a witness that meets them, clause by clause, at boundary values. -/

namespace Sys2Proof.Tests

open Sys2Proof Sys2Proof.Machine

/-! ### Ill-formed terms -/

/-- R57: 0xFF never ends a chain. -/
theorem smoke_lextT1End_FF : (Instr.lextT1End 0xFF#8).wf = false := by decide

/-- R62: each kind of row in a context that is not its own. -/
theorem smoke_wrong_context :
    (Instr.hdrT0 0#5).wfIn (.control .typeZero) = false ∧ (Instr.hdrInvalid7 0#5).wfIn .farLow = false ∧
    (Instr.lit 0#5).wfIn .header = false ∧ (Instr.brefC1 0#5).wfIn .header = false ∧
    (Instr.brefC7T0 0#5).wfIn (.control .typeOne) = false ∧
    (Instr.brefC7T1 0#5).wfIn (.control .typeZero) = false ∧
    (Instr.lextT0 0#8).wfIn (.lengthExt .typeOne) = false ∧
    Instr.lextT1More.wfIn (.lengthExt .typeZero) = false ∧
    (Instr.lextT1End 0xFF#8).wfIn (.lengthExt .typeOne) = false ∧
    (Instr.ofsNear 0xFF#8).wfIn (.offset .typeOne 31#5) = false ∧
    (Instr.ofsNear 0#8).wfIn .farHigh = false ∧
    (Instr.ofsFarT1 .trigger).wfIn (.offset .typeZero 31#5) = false ∧
    (Instr.ofsFarT1 (.extHigh 0#8)).wfIn .farLow = false := by decide

/-- R54 to R59: segments with no layout. -/
theorem smoke_ill_formed_segments :
    (Segment.lit []).wf .typeZero = false ∧ (Segment.lit (List.replicate 33 0#8)).wf .typeZero = false ∧
    (Segment.hdr .typeOne [0#8]).wf .typeZero = false ∧
    (Segment.bref 0#3 0#5 0#8 none).wf .typeZero = false ∧
    (Segment.bref 7#3 0#5 0#8 none).wf .typeZero = false ∧
    (Segment.bref 1#3 31#5 0xFF#8 none).wf .typeOne = false ∧
    (Segment.bref 1#3 31#5 0xFF#8 (some (0#8, 0#8))).wf .typeZero = false ∧
    (Segment.bref7 0#5 [0xFF#8, 0#8] 0#8 none).wf .typeZero = false ∧
    (Segment.bref7 0#5 [0xFF#8] 0#8 none).wf .typeOne = false ∧
    (Segment.bref7 0#5 [] 0#8 none).wf .typeOne = false := by decide

/-- R1: a saturation point needs a finite capacity below it. -/
theorem smoke_illegal_parameters :
    ({ inMax := 1, outMax := none, lenSat := some 9 } : Config).legal = false ∧
    ({ inMax := 1, outMax := some 9, lenSat := some 9 } : Config).legal = false := by decide

/-- A list out of order or with a repeat is not canonical. -/
theorem smoke_ill_formed_memory :
    Memory.wf [(3, 0#8), (2, 0#8)] = false ∧ Memory.wf [(2, 0#8), (2, 1#8)] = false := by decide

/-! ### Decoding, one written-out word per constructor (R51 to R59, R62) -/

theorem test_decode_header :
    decodeByte .header 0b00011111#8 = .hdrT0 31#5 ∧ decodeByte .header 0b00100010#8 = .hdrT1 2#5 ∧
    decodeByte .header 0b01000000#8 = .hdrInvalid2 0#5 ∧ decodeByte .header 0b01100000#8 = .hdrInvalid3 0#5 ∧
    decodeByte .header 0b10000001#8 = .hdrInvalid4 1#5 ∧ decodeByte .header 0b10100000#8 = .hdrInvalid5 0#5 ∧
    decodeByte .header 0b11000000#8 = .hdrInvalid6 0#5 ∧ decodeByte .header 0b11111111#8 = .hdrInvalid7 31#5 := by
  decide

/-- Vector L8 of 95_test_vectors, and the classes between. -/
theorem test_decode_control :
    decodeByte (.control .typeZero) 0x1F#8 = .lit 31#5 ∧ decodeByte (.control .typeZero) 0x3F#8 = .brefC1 31#5 ∧
    decodeByte (.control .typeOne) 0x41#8 = .brefC2 1#5 ∧ decodeByte (.control .typeOne) 0x62#8 = .brefC3 2#5 ∧
    decodeByte (.control .typeOne) 0x9F#8 = .brefC4 31#5 ∧ decodeByte (.control .typeZero) 0xA0#8 = .brefC5 0#5 ∧
    decodeByte (.control .typeZero) 0xC5#8 = .brefC6 5#5 ∧ decodeByte (.control .typeZero) 0xE0#8 = .brefC7T0 0#5 ∧
    decodeByte (.control .typeOne) 0xFF#8 = .brefC7T1 31#5 := by decide

theorem test_decode_resolver :
    decodeByte (.lengthExt .typeZero) 0xFF#8 = .lextT0 0xFF#8 ∧
    decodeByte (.lengthExt .typeOne) 0xFF#8 = .lextT1More ∧
    decodeByte (.lengthExt .typeOne) 0x00#8 = .lextT1End 0x00#8 ∧
    decodeByte (.offset .typeOne 30#5) 0xFF#8 = .ofsNear 0xFF#8 ∧
    decodeByte (.offset .typeOne 31#5) 0xFF#8 = .ofsFarT1 .trigger ∧
    decodeByte .farHigh 0x00#8 = .ofsFarT1 (.extHigh 0x00#8) ∧
    decodeByte .farLow 0x01#8 = .ofsFarT1 (.extLow 0x01#8) := by decide

/-- R55 to R59: `BREF 1, 31, FF, FAR 00 0C` (program P3) and the chain of vector B13. -/
theorem test_segment_bytes :
    (Segment.bref 1#3 31#5 0xFF#8 (some (0x00#8, 0x0C#8))).bytes = [0x3F#8, 0xFF#8, 0x00#8, 0x0C#8] ∧
    (Segment.bref7 0#5 [0xFF#8, 0xFF#8, 0x05#8] 0x00#8 none).bytes =
      [0xE0#8, 0xFF#8, 0xFF#8, 0x05#8, 0x00#8] ∧
    (Segment.bref7 0#5 [0xFF#8, 0xFF#8, 0x05#8] 0x00#8 none).copyLength = some 524 ∧
    (Segment.bref 1#3 31#5 0xFF#8 (some (0x00#8, 0x01#8))).distance = some 8193 := by decide

/-- The bare words of the opcode table (log 6): the header rows and the one three-byte row. -/
theorem test_table_words :
    decodeTableWord 8 0x00 = some (.hdrT0 0#5) ∧ decodeTableWord 8 0xE0 = some (.hdrInvalid7 0#5) ∧
    decodeTableWord 24 0x0100FF = some (.ofsFarT1 .trigger) := by decide

/-! ### One step each -/

/-- Legal parameters with an output capacity of 8 bytes. -/
def smallConfig : Config := { inMax := 64, outMax := some 8, lenSat := some 9 }

/-- A state in the middle of a decode: FSM state, cursor, block and output so far. -/
def midway (st : FsmState) (ip : Nat) (blk out : List Byte) : State :=
  { State.resetWith smallConfig with
    st := st, ip := ip, n := blk.length, olen := out.length,
    inMem := Memory.writeFrom [] 0 blk, outMem := Memory.writeFrom [] 0 out }

/-- The state a step answers. -/
def after (o : StepOutcome) : Option State :=
  match o with
  | .next t => some t
  | .fault _ => none
  | .refused _ => none

/-- Program P1, step 1. -/
theorem test_hdrT0 : (after (step (midway .hdr 0 [0x02#8, 0x61#8, 0x62#8, 0x63#8] []))).map
    (fun t => (t.st, t.ip, t.dialect, t.litRem)) = some (.lit, 1, .typeZero, 3) := by decide

/-- Vector H2, step 1. -/
theorem test_hdrT1 : (after (step (midway .hdr 0 [0x20#8, 0x41#8] []))).map
    (fun t => (t.st, t.ip, t.dialect, t.litRem)) = some (.lit, 1, .typeOne, 1) := by decide

/-- Vectors H6, H10: the dialect is tested before the literal. -/
theorem test_hdrInvalid : [0x5F#8, 0x60#8, 0x80#8, 0xA0#8, 0xC0#8, 0xE0#8].all (fun b =>
    (after (step (midway .hdr 0 [b] []))).map (fun t => (t.st, t.err, t.ip)) == some (.err, 1#3, 1)) = true := by
  decide

/-- Vectors H7, H8, K2 and K6: the empty block, a missing literal byte, a full buffer, and truncation before
capacity. -/
theorem test_header_errors :
    (after (step (midway .hdr 0 [] []))).map (fun t => (t.st, t.err, t.ip)) = some (.err, 2#3, 0) ∧
    (after (step (midway .hdr 0 [0x00#8] []))).map (fun t => (t.st, t.err, t.ip)) = some (.err, 2#3, 1) ∧
    (after (step { midway .hdr 0 [0x01#8, 0x61#8, 0x62#8] [] with
      cfg := { inMax := 64, outMax := some 1, lenSat := none } })).map
      (fun t => (t.st, t.err, t.ip, t.olen)) = some (.err, 4#3, 1, 0) ∧
    (after (step { midway .hdr 0 [0x01#8, 0x61#8] [] with
      cfg := { inMax := 64, outMax := some 0, lenSat := none } })).map
      (fun t => (t.st, t.err)) = some (.err, 2#3) := by decide

/-- Program P1, step 17; vector L4. -/
theorem test_lit :
    (after (step (midway .ctrl 0 [0x01#8, 0x21#8, 0x21#8] [0x61#8]))).map
      (fun t => (t.st, t.ip, t.cls, t.litRem)) = some (.lit, 1, 0#3, 2) ∧
    (after (step (midway .ctrl 2 [0x00#8, 0x41#8, 0x05#8, 0x01#8, 0x02#8] [0x41#8]))).map
      (fun t => (t.st, t.err, t.ip, t.olen)) = some (.err, 2#3, 3, 1) := by decide

/-- Program P1, step 4: the last byte of a literal. -/
theorem test_literal_transfer :
    (after (step { midway .lit 3 [0x02#8, 0x61#8, 0x62#8, 0x63#8] [0x61#8, 0x62#8] with litRem := 1 })).map
      (fun t => (t.st, t.ip, t.olen, t.outMem.read 2)) = some (.ctrl, 4, 3, some 0x63#8) := by decide

/-- Program P1, step 20. -/
theorem test_done : (after (step (midway .ctrl 2 [0x00#8, 0x41#8] [0x41#8]))).map
    (fun t => (t.st, t.ip, t.olen)) = some (.done, 2, 1) := by decide

/-- Vectors B1 to B6: the copy lengths 3 to 8. -/
theorem test_bref_lengths :
    [0x20#8, 0x40#8, 0x60#8, 0x80#8, 0xA0#8, 0xC0#8].map (fun b =>
      (after (step (midway .ctrl 0 [b, 0x00#8] [0x41#8]))).map (fun t => (t.st, t.len))) =
    [some (.ofs, 3), some (.ofs, 4), some (.ofs, 5), some (.ofs, 6), some (.ofs, 7), some (.ofs, 8)] := by
  decide

/-- Program P1, step 5 and its TypeOne form: `len` is 9 and an extension byte is due. -/
theorem test_bref_class7 :
    (after (step (midway .ctrl 0 [0xE0#8, 0x00#8] [0x41#8]))).map
      (fun t => (t.st, t.cls, t.prm, t.len)) = some (.lext, 7#3, 0#5, 9) ∧
    (after (step { midway .ctrl 0 [0xFF#8, 0x00#8] [0x41#8] with dialect := .typeOne })).map
      (fun t => (t.st, t.cls, t.prm, t.len)) = some (.lext, 7#3, 31#5, 9) := by decide

/-- Vectors B9 and B14: after 0xFF TypeZero goes on to the offset, TypeOne stays in the chain. -/
theorem test_lext_FF :
    (after (step { midway .lext 0 [0xFF#8, 0x00#8] [0x41#8] with
      cfg := Config.default, len := 9 })).map (fun t => (t.st, t.len)) = some (.ofs, 264) ∧
    (after (step { midway .lext 0 [0xFF#8, 0x00#8] [0x41#8] with
      cfg := Config.default, dialect := .typeOne, len := 9 })).map
      (fun t => (t.st, t.len)) = some (.lext, 264) := by decide

/-- Vector B11: a byte below 0xFF ends the chain and counts. -/
theorem test_lextT1End :
    (after (step { midway .lext 0 [0xFE#8, 0x00#8] [0x41#8] with
      cfg := Config.default, dialect := .typeOne, len := 9 })).map
      (fun t => (t.st, t.len)) = some (.ofs, 263) := by decide

/-- Program P1, step 7; vector E9; vector K5 (the offset is tested before the capacity). -/
theorem test_ofsNear :
    (after (step { midway .ofs 0 [0x02#8] [0x61#8, 0x62#8, 0x63#8] with len := 5 })).map
      (fun t => (t.st, t.ofs, t.src, t.cpyRem)) = some (.copy, 2#17, 0, 5) ∧
    (after (step { midway .ofs 0 [0x01#8] [0x41#8] with len := 8 })).map
      (fun t => (t.st, t.err, t.ip)) = some (.err, 3#3, 1) := by decide

/-- Vector O10 against O6: only `p = 31` with `lo = 0xFF` is the far form. -/
theorem test_far_trigger :
    (after (step { midway .ofs 0 [0xFF#8] [0x41#8] with dialect := .typeOne, prm := 31#5, len := 3 })).map
      (fun t => (t.st, t.ofs)) = some (.xhi, 0x1FFF#17) ∧
    (after (step { midway .ofs 0 [0xFF#8] [0x41#8] with dialect := .typeOne, prm := 30#5, len := 3 })).map
      (fun t => (t.st, t.ofs, t.err)) = some (.err, 0x1EFF#17, 3#3) := by decide

/-- Vectors O8 and O9: the extension is big-endian; the largest raw offset is 73726. -/
theorem test_far_extension :
    (after (step { midway .xhi 0 [0x01#8, 0x00#8] [0x41#8] with dialect := .typeOne })).map
      (fun t => (t.st, t.xhi, t.ip)) = some (.xlo, 0x01#8, 1) ∧
    (after (step { midway .xlo 0 [0x00#8] [0x41#8] with ofs := 0x1FFF#17, xhi := 0x01#8 })).map
      (fun t => (t.ofs, t.err)) = some (8447#17, 3#3) ∧
    (after (step { midway .xlo 0 [0xFF#8] [0x41#8] with ofs := 0x1FFF#17, xhi := 0xFF#8 })).map
      (fun t => (t.ofs, t.err)) = some (73726#17, 3#3) := by decide

/-- Program P2, steps 14 and 17: distance 1 reads the byte just written, and the last step returns to
the control boundary. -/
theorem test_copy_step :
    (after (step { midway .copy 0 [] [0x65#8, 0x6C#8] with src := 1, cpyRem := 2 })).map
      (fun t => (t.st, t.olen, t.src, t.outMem.read 2)) = some (.copy, 3, 2, some 0x6C#8) ∧
    (after (step { midway .copy 0 [] [0x65#8, 0x6C#8] with src := 1, cpyRem := 1 })).map
      (fun t => t.st) = some .ctrl := by decide

/-- W6, W9 and W10 of 95_test_vectors through the reference function. -/
theorem test_reference :
    decompress none [0x04#8, 0x61#8, 0x62#8, 0x63#8, 0x64#8, 0x65#8, 0x60#8, 0x01#8] =
      some (.ok [0x61#8, 0x62#8, 0x63#8, 0x64#8, 0x65#8, 0x64#8, 0x65#8, 0x64#8, 0x65#8, 0x64#8]) ∧
    decompress none [0x00#8, 0x41#8, 0x20#8] = some (.error .truncatedInput) ∧
    decompress none [0x40#8, 0x00#8] = some (.error .unsupportedDialect) := ⟨rfl, rfl, rfl⟩

/-- A bare table word runs as the next step after reset (log 6). -/
theorem test_withFetchWord :
    (after (step (State.reset.withFetchWord 8 0x21))).map (fun t => (t.st, t.dialect, t.litRem)) =
      some (.lit, .typeOne, 2) ∧
    (after (step (State.reset.withFetchWord 24 0x0100FF))).map (fun t => (t.st, t.ofs)) =
      some (.xhi, 0x1FFF#17) := by decide

end Sys2Proof.Tests
end

