-- ==== Sys2Proof/Tests/Witnesses.lean ====
section
/-! SUPPORT. For every statement with hypotheses, concrete states and operands that meet them, one for
each clause, at the boundary values where clauses meet. The states are legal mid-decode states with
an output capacity of 8 bytes. -/

namespace Sys2Proof.Tests

open Sys2Proof Sys2Proof.Machine

/-- Fits, on a concrete state. -/
theorem fits_of {s : State} {k : Nat} (h : s.cfg.exceeds (s.olen + k) = false) : s.Fits k :=
  State.fits_iff.mpr h

/-- Does not fit, on a concrete state. -/
theorem not_fits_of {s : State} {k : Nat} (h : s.cfg.exceeds (s.olen + k) = true) : ¬ s.Fits k :=
  State.not_fits_iff.mpr h

/-! ### Encoding -/

theorem witness_DecodeOfEncode :
    (Instr.lextT1End 0xFE#8).wfIn (.lengthExt .typeOne) = true ∧
    (Instr.ofsNear 0xFF#8).wfIn (.offset .typeOne 30#5) = true ∧
    (Instr.ofsNear 0xFF#8).wfIn (.offset .typeZero 31#5) = true ∧
    (Instr.ofsFarT1 .trigger).wfIn (.offset .typeOne 31#5) = true ∧
    (Instr.hdrInvalid7 31#5).wfIn .header = true ∧
    (Instr.lit 31#5).wfIn (.control .typeOne) = true := by decide

theorem witness_OpcodeMap :
    (0x1F#8).toNat ≤ 0x1F ∧ 0x20 ≤ (0x20#8).toNat ∧ (0x20#8).toNat ≤ 0x3F ∧ 0x40 ≤ (0xFF#8).toNat ∧
    0xE0 ≤ (0xE0#8).toNat ∧ 0xC0 ≤ (0xDF#8).toNat ∧ (0xDF#8).toNat ≤ 0xDF ∧
    (midway .lit 0 [0x00#8] []).st = .lit := by decide

/-- Both clauses; the chain, the far suffix, and literals of 1 and 32 bytes. -/
theorem witness_SegmentBytesReadBack :
    (Segment.bref7 31#5 [0xFF#8, 0xFE#8] 0xFF#8 (some (0xFF#8, 0xFF#8))).wf .typeOne = true ∧
    (Segment.bref7 31#5 [0xFF#8] 0xFF#8 none).wf .typeZero = true ∧
    (Segment.bref 6#3 31#5 0xFE#8 none).wf .typeOne = true ∧
    (Segment.lit (List.replicate 32 0#8)).wf .typeOne = true ∧
    (Segment.lit [0#8]).isControl = true ∧
    (Segment.hdr .typeOne [0#8]).wf .typeOne = true ∧ (Segment.hdr .typeOne [0#8]).isControl = false := by
  decide

theorem witness_SegmentOperandRanges :
    (Segment.bref 1#3 0#5 0#8 none).wf .typeZero = true ∧
    (Segment.bref 1#3 0#5 0#8 none).copyLength = some 3 ∧ (Segment.bref 1#3 0#5 0#8 none).distance = some 1 ∧
    (Segment.bref7 31#5 [0xFF#8] 0xFF#8 none).wf .typeZero = true ∧
    (Segment.bref7 31#5 [0xFF#8] 0xFF#8 none).copyLength = some 264 ∧
    (Segment.bref7 31#5 [0xFF#8] 0xFF#8 none).distance = some 8192 ∧
    (Segment.bref 1#3 31#5 0xFF#8 (some (0xFF#8, 0xFF#8))).wf .typeOne = true ∧
    (Segment.bref 1#3 31#5 0xFF#8 (some (0xFF#8, 0xFF#8))).distance = some 73727 ∧
    (Segment.lit [0#8]).copyLength = none := by decide

/-- Lengths 8 and 9 and distances 8191 to 8193 are where the forms meet. -/
theorem witness_CopyPseudo :
    copySegment .typeOne 8 8191 = some (.bref 6#3 31#5 0xFE#8 none) ∧
    copySegment .typeOne 9 8192 = some (.bref7 31#5 [0#8] 0xFF#8 (some (0#8, 0#8))) ∧
    copySegment .typeZero 264 8192 = some (.bref7 31#5 [0xFF#8] 0xFF#8 none) ∧
    copySegment .typeOne 264 73727 = some (.bref7 31#5 [0xFF#8, 0#8] 0xFF#8 (some (0xFF#8, 0xFF#8))) ∧
    copySegment .typeZero 3 8193 = none := by decide

theorem witness_LitsPseudo :
    litSegments (List.replicate 33 0#8) = [.lit (List.replicate 32 0#8), .lit [0#8]] ∧
    0 + 1 < (litSegments (List.replicate 33 0#8)).length := by decide

theorem witness_FinalOffsetRange :
    isFarTrigger .typeOne 31#5 0xFE#8 = false ∧ finalOffset (rawOffset 31#5 0xFE#8) = 8191 := by decide

/-! ### The step -/

/-- The six contexts. -/
theorem witness_StepRunsTheDecodedInstruction :
    [FsmState.hdr, .ctrl, .lext, .ofs, .xhi, .xlo].all (fun f =>
      let s := { midway f 0 [0xFF#8] [0x41#8] with dialect := .typeOne, prm := 31#5 }
      decide (s.ip < s.n) && s.inMem.read s.ip == some 0xFF#8) = true ∧
    decode (.offset .typeOne 31#5) [0xFF#8] = .ok (.ofsFarT1 .trigger, []) :=
  ⟨by decide, rfl⟩

theorem witness_IdleDoneAndErrorStatesStay :
    State.reset.st = .idle ∧ (midway .done 0 [] []).st = .done ∧ (midway .err 0 [] []).st = .err := by decide

theorem witness_DoneExactly :
    (∃ t, (midway .ctrl 2 [0x00#8, 0x41#8] [0x41#8]).st ≠ .done ∧
      step (midway .ctrl 2 [0x00#8, 0x41#8] [0x41#8]) = .next t ∧ t.st = .done) ∧
    (midway .ctrl 2 [0x00#8, 0x41#8] [0x41#8]).ip = (midway .ctrl 2 [0x00#8, 0x41#8] [0x41#8]).n ∧
    [FsmState.hdr, .lext, .ofs, .xhi, .xlo].all (fun f => (midway f 1 [0#8] []).ip == (midway f 1 [0#8] []).n) = true :=
  ⟨⟨_, by decide, rfl, rfl⟩, by decide, by decide⟩

/-- The error is raised, and the right side holds, at the boundary value 2 of the tag; at 1 neither. -/
theorem witness_UnsupportedDialectExactly :
    (∃ t, step (midway .hdr 0 [0x40#8] []) = .next t ∧ t.st = .err ∧ t.err = 1#3) ∧
    (midway .hdr 0 [0x40#8] []).inMem.read 0 = some 0x40#8 ∧ 2 ≤ ((0x40#8).extractLsb' 5 3).toNat ∧
    (∃ t, step (midway .hdr 0 [0x3F#8] []) = .next t ∧ t.st = .err ∧ t.err = 2#3) :=
  ⟨⟨_, rfl, rfl, rfl⟩, by decide, by decide, ⟨_, rfl, rfl, rfl⟩⟩

/-- Both kinds of point; a literal exactly present is not truncated. -/
theorem witness_TruncatedInputExactly :
    [FsmState.hdr, .lext, .ofs, .xhi, .xlo].all (fun f =>
      (after (step (midway f 1 [0#8] [0x41#8]))).map (fun t => (t.st, t.err)) == some (.err, 2#3)) = true ∧
    (after (step (midway .hdr 0 [0x01#8, 0x61#8] []))).map (fun t => (t.st, t.err)) = some (.err, 2#3) ∧
    (after (step (midway .ctrl 0 [0x01#8, 0x61#8] [0x41#8]))).map (fun t => (t.st, t.err)) = some (.err, 2#3) ∧
    (after (step (midway .ctrl 0 [0x00#8, 0x61#8] [0x41#8]))).map (fun t => (t.st, t.err)) = some (.lit, 0#3) := by
  decide

/-- A distance of one more than the output, near and far; a distance equal to it is valid. -/
theorem witness_InvalidOffsetExactly :
    (after (step { midway .ofs 0 [0x01#8] [0x41#8] with len := 3 })).map (fun t => (t.st, t.err)) =
      some (.err, 3#3) ∧
    (after (step { midway .xlo 0 [0x00#8] [0x41#8] with ofs := 0x1FFF#17, len := 3 })).map
      (fun t => (t.st, t.err)) = some (.err, 3#3) ∧
    (after (step { midway .ofs 0 [0x00#8] [0x41#8] with len := 3 })).map (fun t => (t.st, t.err)) =
      some (.copy, 0#3) := by decide

/-- One byte over the capacity of 8, for a literal, a near and a far offset; exactly 8 fits. -/
theorem witness_OutputOverflowExactly :
    (after (step (midway .ctrl 0 [0x01#8, 0#8, 0#8] (List.replicate 7 0#8)))).map
      (fun t => (t.st, t.err)) = some (.err, 4#3) ∧
    (after (step (midway .ctrl 0 [0x00#8, 0#8, 0#8] (List.replicate 7 0#8)))).map
      (fun t => (t.st, t.err)) = some (.lit, 0#3) ∧
    (after (step { midway .ofs 0 [0x00#8] (List.replicate 5 0#8) with len := 4 })).map
      (fun t => (t.st, t.err)) = some (.err, 4#3) ∧
    (after (step { midway .ofs 0 [0x00#8] (List.replicate 5 0#8) with len := 3 })).map
      (fun t => (t.st, t.err)) = some (.copy, 0#3) ∧
    (after (step { midway .xlo 0 [0x00#8] (List.replicate 8 0#8) with
      ofs := 0x0000#17, xhi := 0#8, len := 1 })).map (fun t => (t.st, t.err)) = some (.err, 4#3) := by decide

/-! ### The instructions -/

/-- Exactly present and exactly full; one byte missing; one byte too many. -/
theorem witness_HeaderRowsBeginALiteral :
    ((7#5).toNat + 1 ≤ (midway .hdr 0 (List.replicate 9 7#8) []).n - ((midway .hdr 0 (List.replicate 9 7#8) []).ip + 1) ∧
      (midway .hdr 0 (List.replicate 9 7#8) []).Fits ((7#5).toNat + 1)) ∧
    (midway .hdr 0 (List.replicate 8 7#8) []).n - ((midway .hdr 0 (List.replicate 8 7#8) []).ip + 1) < (7#5).toNat + 1 ∧
    ((8#5).toNat + 1 ≤ (midway .hdr 0 (List.replicate 10 8#8) []).n - ((midway .hdr 0 (List.replicate 10 8#8) []).ip + 1) ∧
      ¬ (midway .hdr 0 (List.replicate 10 8#8) []).Fits ((8#5).toNat + 1)) :=
  ⟨⟨by decide, fits_of (by decide)⟩, by decide, ⟨by decide, not_fits_of (by decide)⟩⟩

theorem witness_InvalidHeaderRowsRaise :
    Instr.hdrInvalid2 0#5 ∈ [Instr.hdrInvalid2 0#5, .hdrInvalid3 0#5] ∧ 0x40 ≤ (0x40#8).toNat ∧
    (midway .hdr 0 [0x40#8] []).ip < (midway .hdr 0 [0x40#8] []).n ∧
    (midway .hdr 0 [0x40#8] []).inMem.read 0 = some 0x40#8 := by decide

theorem witness_LitRowBeginsALiteral :
    ((0#5).toNat + 1 ≤ (midway .ctrl 0 [0#8, 0#8] (List.replicate 7 0#8)).n - ((midway .ctrl 0 [0#8, 0#8] (List.replicate 7 0#8)).ip + 1) ∧
      (midway .ctrl 0 [0#8, 0#8] (List.replicate 7 0#8)).Fits ((0#5).toNat + 1)) ∧
    (midway .ctrl 0 [0#8] [0#8]).n - ((midway .ctrl 0 [0#8] [0#8]).ip + 1) < (0#5).toNat + 1 ∧
    ((0#5).toNat + 1 ≤ (midway .ctrl 0 [0#8, 0#8] (List.replicate 8 0#8)).n - ((midway .ctrl 0 [0#8, 0#8] (List.replicate 8 0#8)).ip + 1) ∧
      ¬ (midway .ctrl 0 [0#8, 0#8] (List.replicate 8 0#8)).Fits ((0#5).toNat + 1)) :=
  ⟨⟨by decide, fits_of (by decide)⟩, by decide, ⟨by decide, not_fits_of (by decide)⟩⟩

/-- A machine without and one with a saturation point. -/
theorem witness_BackrefRows :
    State.reset.cfg.lenSat = none ∧ (midway .ctrl 0 [0x20#8] [0#8]).cfg.lenSat = some 9 := by decide

theorem witness_LengthExtensionRowsAdd :
    State.reset.cfg.lenSat = none ∧
    { midway .lext 1 [0#8] [0#8] with cfg := Config.default }.ip = { midway .lext 1 [0#8] [0#8] with cfg := Config.default }.n ∧
    { midway .lext 0 [0xFF#8] [0#8] with cfg := Config.default }.inMem.read 0 = some 0xFF#8 := by decide

theorem witness_LengthExtensionRowsSaturate : (midway .lext 0 [0xFF#8] [0#8]).cfg.lenSat = some 9 := by decide

/-- A distance equal to the output length and a length that just fits; one more of either. -/
theorem witness_NearOffsetRowValidates :
    (0 * 256 + 4 + 1 ≤ (midway .ofs 0 [0x04#8] (List.replicate 5 0#8)).olen ∧
      { midway .ofs 0 [0x04#8] (List.replicate 5 0#8) with len := 3 }.Fits 3) ∧
    (midway .ofs 0 [0x05#8] (List.replicate 5 0#8)).olen < 0 * 256 + 5 + 1 ∧
    ¬ { midway .ofs 0 [0x04#8] (List.replicate 5 0#8) with len := 4 }.Fits 4 :=
  ⟨⟨by decide, fits_of (by decide)⟩, by decide, not_fits_of (by decide)⟩

/-- The three clauses of the last byte, on an output of 8192 or 8191 bytes (only its length matters). -/
theorem witness_FarOffsetRow :
    { midway .ofs 0 [0xFF#8] [0#8] with prm := 31#5 }.prm = 31#5 ∧
    (0x1FFF + (0 * 256 + 0) + 1 ≤ { State.reset with ofs := 0x1FFF#17, olen := 8192, len := 3 }.olen ∧
      { State.reset with ofs := 0x1FFF#17, olen := 8192, len := 3 }.Fits 3) ∧
    { State.reset with ofs := 0x1FFF#17, olen := 8191, len := 3 }.olen < 0x1FFF + (0 * 256 + 0) + 1 ∧
    ¬ { State.reset with cfg := { inMax := 64, outMax := some 8194, lenSat := none },
                         ofs := 0x1FFF#17, olen := 8192, len := 3 }.Fits 3 :=
  ⟨by decide, ⟨by decide, fits_of (by decide)⟩, by decide, not_fits_of (by decide)⟩

/-- The last byte of a literal, into the last free byte. -/
theorem witness_LiteralTransfer :
    let s := { midway .lit 0 [0x61#8] (List.replicate 7 0#8) with litRem := 1 }
    s.st = .lit ∧ s.litRem ≠ 0#6 ∧ s.ip < s.n ∧ s.inMem.read s.ip = some 0x61#8 ∧ s.Fits 1 :=
  ⟨by decide, by decide, by decide, by decide, fits_of (by decide)⟩

/-- The last byte of a copy, from the byte just below `olen`, into the last free byte. -/
theorem witness_CopyStep :
    let s := { midway .copy 0 [] (List.replicate 7 0x61#8) with cpyRem := 1, src := 6 }
    s.st = .copy ∧ 1 ≤ s.cpyRem ∧ s.src < s.olen ∧ s.outMem.read s.src = some 0x61#8 ∧ s.Fits 1 :=
  ⟨by decide, by decide, by decide, by decide, fits_of (by decide)⟩

/-- Each clause, in states that no run reaches. -/
theorem witness_TransferStepsStop :
    (midway .lit 0 [0#8] []).litRem = 0#6 ∧
    ({ midway .lit 1 [0#8] [] with litRem := 1 }.litRem ≠ 0#6 ∧ (midway .lit 1 [0#8] []).n ≤ (midway .lit 1 [0#8] []).ip) ∧
    ({ midway .lit 0 [0#8] [] with inMem := [] }.ip < (midway .lit 0 [0#8] []).n ∧
      { midway .lit 0 [0#8] [] with inMem := [] }.inMem.read 0 = none) ∧
    ((midway .lit 0 [0#8] (List.replicate 8 0#8)).inMem.read 0).isSome = true ∧
    ¬ (midway .lit 0 [0#8] (List.replicate 8 0#8)).Fits 1 ∧
    (midway .copy 0 [] []).cpyRem = 0 ∧
    { midway .copy 0 [] [0#8] with src := 1 }.olen ≤ { midway .copy 0 [] [0#8] with src := 1 }.src ∧
    { midway .copy 0 [] [0#8] with outMem := [] }.outMem.read 0 = none ∧
    ((midway .copy 0 [] (List.replicate 8 0#8)).outMem.read 0).isSome = true ∧
    ¬ (midway .copy 0 [] (List.replicate 8 0#8)).Fits 1 :=
  ⟨by decide, by decide, by decide, by decide, not_fits_of (by decide), by decide, by decide, by decide,
    by decide, not_fits_of (by decide)⟩

/-! ### Frames and whole-machine rules: instructions and steps that answer a next state -/

theorem witness_HeaderRowsFrame :
    (∃ t, exec (.hdrT0 0#5) (midway .hdr 0 [0#8, 0#8] []) = .next t ∧ t.st = .lit) ∧
    (∃ t, exec (.hdrInvalid2 0#5) (midway .hdr 0 [0x40#8] []) = .next t ∧ t.st = .err) :=
  ⟨⟨_, rfl, rfl⟩, ⟨_, rfl, rfl⟩⟩

theorem witness_LitRowFrame :
    (∃ t, exec (.lit 0#5) (midway .ctrl 0 [0#8, 0#8] [0#8]) = .next t ∧ t.st = .lit) ∧
    (∃ t, exec (.lit 1#5) (midway .ctrl 0 [0#8, 0#8] [0#8]) = .next t ∧ t.st = .err) :=
  ⟨⟨_, rfl, rfl⟩, ⟨_, rfl, rfl⟩⟩

theorem witness_BackrefRowsFrame :
    ∃ t, exec (.brefC7T1 0#5) (midway .ctrl 0 [0xE0#8] [0#8]) = .next t ∧ t.st = .lext := ⟨_, rfl, rfl⟩

theorem witness_LengthExtensionRowsFrame :
    ∃ t, exec .lextT1More (midway .lext 0 [0xFF#8] [0#8]) = .next t ∧ t.st = .lext := ⟨_, rfl, rfl⟩

theorem witness_OffsetRowsFrame :
    (∃ t, exec (.ofsNear 0#8) { midway .ofs 0 [0#8] [0#8] with len := 3 } = .next t ∧ t.st = .copy) ∧
    (∃ t, exec (.ofsFarT1 (.extHigh 1#8)) (midway .xhi 0 [1#8] [0#8]) = .next t ∧ t.st = .xlo) :=
  ⟨⟨_, rfl, rfl⟩, ⟨_, rfl, rfl⟩⟩

theorem witness_TransferStepsFrame :
    (∃ t, literalStep { midway .lit 0 [0x61#8] [0#8] with litRem := 1 } = .next t ∧ t.olen = 2) ∧
    (∃ t, copyStep { midway .copy 0 [] [0x61#8] with cpyRem := 3 } = .next t ∧ t.olen = 2) :=
  ⟨⟨_, rfl, rfl⟩, ⟨_, rfl, rfl⟩⟩

/-- A step that reads and appends, and one that reads and does not. -/
theorem witness_StepMovesTheCursor :
    (∃ t, step { midway .lit 0 [0x61#8] [0#8] with litRem := 1 } = .next t ∧ t.ip = 1) ∧
    (∃ t, step { midway .copy 1 [0#8] [0x61#8] with cpyRem := 3 } = .next t ∧ t.ip = 1) :=
  ⟨⟨_, rfl, rfl⟩, ⟨_, rfl, rfl⟩⟩

theorem witness_OutputIsAppendOnly :
    (∃ t, step { midway .copy 1 [0#8] [0x61#8] with cpyRem := 3 } = .next t ∧ t.olen = 2) ∧
    (∃ t, step (midway .ctrl 0 [0x20#8] [0x61#8]) = .next t ∧ t.olen = 1) :=
  ⟨⟨_, rfl, rfl⟩, ⟨_, rfl, rfl⟩⟩

theorem witness_ErrorEntryWritesNoOutput :
    ∃ t, (midway .ofs 0 [] [0#8]).st ≠ .err ∧ step (midway .ofs 0 [] [0#8]) = .next t ∧ t.st = .err :=
  ⟨_, by decide, rfl, rfl⟩

theorem witness_OnlyTheHeaderStepWritesDialect :
    ∃ t, step (midway .ctrl 0 [0x20#8] [0#8]) = .next t ∧ (midway .ctrl 0 [0x20#8] [0#8]).st ≠ .hdr :=
  ⟨_, rfl, by decide⟩

/-! ### Reachable states and the invariant -/

/-- The legal parameters of the tests. -/
theorem smallConfig_legal : smallConfig.legal = true := by decide

/-- A reachable state in `S_ERR`: Start of a bad header, then one step. -/
theorem witness_Reachable :
    ∃ s, Reachable s ∧ s.st = .err ∧ s.err = 1#3 :=
  ⟨_, .move _ _ .engine (.move _ _ (.start [0x40#8]) (.reset smallConfig smallConfig_legal) rfl) rfl, rfl, rfl⟩

/-- A reachable state in the middle of a literal. -/
theorem witness_ReachableLiteral : ∃ s, Reachable s ∧ s.st = .lit ∧ s.litRem = 1 :=
  ⟨_, .move _ _ .engine (.move _ _ (.start [0x00#8, 0x41#8]) (.reset smallConfig smallConfig_legal) rfl) rfl, rfl, rfl⟩

/-- A state about to copy 3 bytes. -/
def copying : State :=
  { midway .copy 4 [0x00#8, 0x41#8, 0x20#8, 0x00#8] [0x41#8] with cls := 1#3, len := 3, cpyRem := 3 }

/-- The invariant in a state that is copying, and a step from it. -/
theorem witness_EveryStepKeepsTheInvariant : Inv copying ∧ ∃ t, step copying = .next t ∧ t.olen = 2 :=
  ⟨by constructor <;> decide, ⟨_, rfl, rfl⟩⟩

/-- Reset in the middle of a copy; Start from DONE. -/
theorem witness_HostMoves :
    (Inv copying ∧ ∃ t, copying.move .reset = some t ∧ t.st = .idle) ∧
    (Inv { copying with st := .done } ∧ ∃ t, { copying with st := .done }.move (.start [0x00#8]) = some t ∧ t.n = 1) :=
  ⟨⟨by constructor <;> decide, ⟨_, rfl, rfl⟩⟩, ⟨by constructor <;> decide, ⟨_, rfl, rfl⟩⟩⟩

/-! ### Runs -/

/-- An overlapping copy that fills the buffer: 3 bytes from distance 2. -/
theorem witness_CopyRun :
    let s := { midway .copy 0 [] (List.replicate 5 0#8) with cpyRem := 3, src := 3 }
    s.st = .copy ∧ s.cpyRem = 3 ∧ 2 ≤ s.olen ∧ s.src = s.olen - 2 ∧ s.Fits 3 ∧
      ∀ a, a < s.olen → (s.outMem.read a).isSome = true :=
  ⟨by decide, by decide, by decide, by decide, fits_of (by decide), by decide⟩

/-- The chain `[FF FF 05]` of vector B13. -/
theorem witness_ExtensionChain :
    let s := { midway .lext 0 [0xFF#8, 0xFF#8, 0x05#8] [0#8] with cfg := Config.default, dialect := .typeOne }
    s.st = .lext ∧ s.dialect = .typeOne ∧ s.cfg.lenSat = none ∧ s.ip + 2 + 1 ≤ s.n ∧
      (∀ j, j < 2 → s.inMem.read (s.ip + j) = some 0xFF#8) ∧ s.inMem.read (s.ip + 2) = some 0x05#8 :=
  ⟨by decide, by decide, by decide, by decide, by decide, by decide⟩

/-- A LIT in the control state and a header segment in the header state. -/
theorem witness_LiteralSegment :
    (let s := midway .ctrl 0 [0x00#8, 0x41#8] [0x40#8]
     (Segment.lit [0x41#8]).wf s.dialect = true ∧ s.ip + (Segment.lit [0x41#8]).bytes.length ≤ s.n ∧
      (∀ j, j < (Segment.lit [0x41#8]).bytes.length → s.inMem.read (s.ip + j) = (Segment.lit [0x41#8]).bytes[j]?) ∧
      s.Fits 1) ∧
    (let s := midway .hdr 0 [0x20#8, 0x41#8] []
     (Segment.hdr .typeOne [0x41#8]).wf .typeOne = true ∧
      (∀ j, j < (Segment.hdr .typeOne [0x41#8]).bytes.length →
        s.inMem.read (s.ip + j) = (Segment.hdr .typeOne [0x41#8]).bytes[j]?) ∧ s.Fits 1) :=
  ⟨⟨by decide, by decide, by decide, fits_of (by decide)⟩, ⟨by decide, by decide, fits_of (by decide)⟩⟩

/-- `BREF 1, 0, 01` on an output of 5 bytes: 3 bytes from distance 2, filling the buffer. -/
theorem witness_BackreferenceSegment :
    let s := midway .ctrl 0 [0x20#8, 0x01#8] (List.replicate 5 0#8)
    let seg := Segment.bref 1#3 0#5 0x01#8 none
    s.st = .ctrl ∧ s.cfg.legal = true ∧ seg.wf s.dialect = true ∧ seg.isControl = true ∧
      seg.copyLength = some 3 ∧ seg.distance = some 2 ∧ s.ip + seg.bytes.length ≤ s.n ∧
      (∀ j, j < seg.bytes.length → s.inMem.read (s.ip + j) = seg.bytes[j]?) ∧
      (∀ a, a < s.olen → (s.outMem.read a).isSome = true) ∧ 2 ≤ s.olen ∧ s.Fits 3 :=
  ⟨by decide, by decide, by decide, by decide, by decide, by decide, by decide, by decide, by decide,
    by decide, fits_of (by decide)⟩

/-- A Start after reset and one from `S_DONE` with old contents everywhere. -/
theorem witness_Start :
    (State.reset.cfg.legal = true ∧ ∃ t, State.reset.start [0x00#8, 0x41#8] = some t ∧ t.n = 2) ∧
    ({ copying with st := .done }.cfg.legal = true ∧
      ∃ t, { copying with st := .done }.start [0x00#8, 0x41#8] = some t ∧ t.n = 2) :=
  ⟨⟨by decide, ⟨_, rfl, rfl⟩⟩, ⟨by decide, ⟨_, rfl, rfl⟩⟩⟩

/-- No Start while BUSY, and none of a block above IN_MAX. -/
theorem witness_NoStart :
    copying.status = .busy ∧
    { State.reset with cfg := { inMax := 0, outMax := none, lenSat := none } }.start [0x00#8] = none := by decide

theorem witness_OutputIsBounded :
    (Segment.bref7 0#5 [0xFF#8] 0#8 none).wf .typeZero = true ∧
    (Segment.bref7 0#5 [0xFF#8] 0#8 none).copyLength = some 264 ∧
    (Segment.lit [0#8]).copyLength = none ∧ (Segment.lit [0#8]).wf .typeOne = true ∧
    (Segment.bref 6#3 0#5 0#8 none).wf .typeOne = true ∧
    (Segment.bref 6#3 0#5 0#8 none).copyLength = some 8 ∧
    (Segment.bref7 0#5 [0xFF#8, 0xFE#8] 0#8 none).wf .typeOne = true ∧
    (Segment.bref7 0#5 [0xFF#8, 0xFE#8] 0#8 none).copyLength = some 518 := by decide

/-- A three-step decode to `S_DONE`; its second step is not the last. -/
theorem witness_EveryDecodeTerminates :
    ∃ s1 u v t, State.reset.start [0x00#8, 0x41#8] = some s1 ∧ run 1 s1 = .next u ∧ step u = .next v ∧
      run 3 s1 = .next t ∧ u.ip = 1 ∧ v.ip = 2 ∧ t.st = .done ∧ t.olen = 1 :=
  ⟨_, _, _, _, rfl, rfl, rfl, rfl, rfl, rfl, rfl, rfl⟩

/-- Two machines that differ in registers, memories, IN_MAX and LEN_SAT, on one block, to their ends. -/
theorem witness_OutcomeDepends :
    let s := State.resetWith { smallConfig with lenSat := none }
    let s' := { copying with st := .done }
    s.cfg.legal = true ∧ s'.cfg.legal = true ∧ s.cfg.outMax = s'.cfg.outMax ∧
    ∃ s1 s1' t t', s.start [0x40#8] = some s1 ∧ s'.start [0x40#8] = some s1' ∧
      run 1 s1 = .next t ∧ run 2 s1' = .next t' ∧ t.isTerminal = true ∧ t'.isTerminal = true :=
  ⟨by decide, by decide, by decide, _, _, _, _, rfl, rfl, rfl, rfl, rfl, rfl⟩

/-! ### The host -/

/-- The four clauses of the observation, each in a state that meets the invariant. -/
theorem witness_HostObserves :
    Inv copying ∧ (Inv { copying with st := .done } ∧ { copying with st := .done }.st = .done) ∧
    (Inv { copying with st := .err, err := 2#3 } ∧ { copying with st := .err, err := 2#3 }.st = .err) :=
  ⟨by constructor <;> decide, ⟨by constructor <;> decide, rfl⟩, ⟨by constructor <;> decide, rfl⟩⟩

theorem witness_Status :
    State.reset.st = .idle ∧ copying.st = .copy ∧ { copying with st := .done }.st = .done ∧
    (midway .err 0 [] []).st = .err := by decide

theorem witness_Instances :
    (0 : Nat) ≠ 1 ∧ ∃ sys, System.move [State.reset, copying] 1 .reset = some sys ∧ sys[0]? = some State.reset :=
  ⟨by decide, _, rfl, rfl⟩

end Sys2Proof.Tests
end

/-! SUPPORT. Two decodes of one block in lockstep: the relation between two machines that differ only in what
no rule of a decode reads, one rule per state operation, and the step that keeps the relation (00_scope R11,
10_state R31, 70_reset R145). -/

namespace Sys2Proof

/-- Saturating an accumulator before an addition does not change its saturated sum (decision D12). -/
theorem Config.saturate_saturate_add (c : Config) (x e : Nat) :
    c.saturate (c.saturate x + e) = c.saturate (x + e) := by
  unfold Config.saturate
  cases c.lenSat with
  | none => rfl
  | some k => simp only; omega

namespace Machine

/-- Two legal machines of one output capacity stand at the same place of the same block with the same output.
IN past the block and OUT past `olen` may differ. -/
structure SameBuffers (s s' : State) : Prop where
  legal : s.cfg.legal = true
  legal' : s'.cfg.legal = true
  capacity : s.cfg.outMax = s'.cfg.outMax
  ip : s.ip = s'.ip
  n : s.n = s'.n
  olen : s.olen = s'.olen
  input : ∀ a, a < s.n → s.inMem.read a = s'.inMem.read a
  output : ∀ a, a < s.olen → s.outMem.read a = s'.outMem.read a

/-- The two accumulators hold one length, each up to its own saturation point (decision D12). -/
def SameLength (s s' : State) : Prop :=
  ∃ x, s.len = s.cfg.saturate x ∧ s'.len = s'.cfg.saturate x

/-- The registers that a rule may still read before writing them, in each FSM state, are the same. `cls` is
in no state such a register, nor is any register at a header boundary. -/
def SameLive (s s' : State) : Prop :=
  match s.st with
  | .idle | .hdr | .done => True
  | .ctrl => s.dialect = s'.dialect
  | .lit => s.dialect = s'.dialect ∧ s.litRem = s'.litRem
  | .lext | .ofs => s.dialect = s'.dialect ∧ s.prm = s'.prm ∧ SameLength s s'
  | .xhi => s.dialect = s'.dialect ∧ s.ofs = s'.ofs ∧ SameLength s s'
  | .xlo => s.dialect = s'.dialect ∧ s.ofs = s'.ofs ∧ s.xhi = s'.xhi ∧ SameLength s s'
  | .copy => s.dialect = s'.dialect ∧ s.src = s'.src ∧ s.cpyRem = s'.cpyRem
  | .err => s.err = s'.err

/-- The two machines are at the same point of the same decode. -/
structure SameDecode (s s' : State) : Prop extends SameBuffers s s' where
  st : s.st = s'.st
  live : SameLive s s'

section

variable {s s' : State}

/-! ### The updates that touch neither buffers nor cursors -/

theorem SameBuffers.advance (h : SameBuffers s s') : SameBuffers s.advance s'.advance :=
  { h with ip := congrArg (· + 1) h.ip }

theorem SameBuffers.latchHeader (h : SameBuffers s s') (d : Dialect) (p : BitVec 5) :
    SameBuffers (s.latchHeader d p) (s'.latchHeader d p) := { h with }

theorem SameBuffers.latchControl (h : SameBuffers s s') (c : BitVec 3) (p : BitVec 5) :
    SameBuffers (s.latchControl c p) (s'.latchControl c p) := { h with }

theorem SameBuffers.setLen (h : SameBuffers s s') (x x' : Nat) :
    SameBuffers (s.setLen x) (s'.setLen x') := { h with }

theorem SameBuffers.setOfs (h : SameBuffers s s') (v : BitVec 17) :
    SameBuffers (s.setOfs v) (s'.setOfs v) := { h with }

theorem SameBuffers.setXhi (h : SameBuffers s s') (v : Byte) :
    SameBuffers (s.setXhi v) (s'.setXhi v) := { h with }

theorem SameBuffers.goto (h : SameBuffers s s') (f : FsmState) :
    SameBuffers (s.goto f) (s'.goto f) := { h with }

/-! ### The operations on the buffers -/

theorem SameBuffers.exceeds (h : SameBuffers s s') (k : Nat) : s.cfg.exceeds k = s'.cfg.exceeds k := by
  rw [Config.exceeds, Config.exceeds, h.capacity]

theorem SameBuffers.inRead (h : SameBuffers s s') {a : Nat} {b : Byte} (hr : s.inRead a = .ok b) :
    s'.inRead a = .ok b := by
  obtain ⟨ha, hb⟩ := State.inRead_ok_iff.mp hr
  exact State.inRead_ok_iff.mpr ⟨h.n ▸ ha, h.input a ha ▸ hb⟩

theorem SameBuffers.outRead (h : SameBuffers s s') {a : Nat} {b : Byte} (hr : s.outRead a = .ok b) :
    s'.outRead a = .ok b := by
  obtain ⟨ha, hb⟩ := State.outRead_ok_iff.mp hr
  exact State.outRead_ok_iff.mpr ⟨h.olen ▸ ha, h.output a ha ▸ hb⟩

/-- Appending one byte to both outputs keeps them the same. -/
theorem SameBuffers.append (h : SameBuffers s s') (v : Byte) :
    SameBuffers (s.grown (s.outMem.write s.olen v)) (s'.grown (s'.outMem.write s'.olen v)) :=
  { h with
    olen := congrArg (· + 1) h.olen
    output := by
      intro a ha
      simp only [State.grown_olen, State.grown_outMem, Memory.read_write, ← h.olen] at ha ⊢
      split
      · rfl
      · exact h.output a (by omega) }

/-! ### The updates that end an operation -/

theorem SameBuffers.raise (h : SameBuffers s s') (k : ErrKind) : SameDecode (s.raise k) (s'.raise k) :=
  { h with st := rfl, live := rfl }

theorem SameBuffers.beginLiteral (h : SameBuffers s s') (hd : s.dialect = s'.dialect) (l : Nat) :
    SameDecode (s.beginLiteral l) (s'.beginLiteral l) :=
  { h with st := rfl, live := ⟨hd, rfl⟩ }

theorem SameBuffers.beginCopy (h : SameBuffers s s') (hd : s.dialect = s'.dialect) (hl : s.len = s'.len)
    (dist : Nat) : SameDecode (s.beginCopy dist) (s'.beginCopy dist) :=
  { h with st := rfl, live := ⟨hd, congrArg (· - dist) h.olen, hl⟩ }

theorem SameBuffers.countLiteral (h : SameBuffers s s') (hst : s.st = .lit) (hst' : s'.st = .lit)
    (hd : s.dialect = s'.dialect) (hr : s.litRem = s'.litRem) :
    SameDecode s.countLiteral s'.countLiteral where
  toSameBuffers := { h with }
  st := by simp [hst, hst', hr]
  live := by by_cases h0 : s'.litRem - 1#6 = 0#6 <;> simp [SameLive, hst, hd, hr, h0]

theorem SameBuffers.countCopy (h : SameBuffers s s') (hst : s.st = .copy) (hst' : s'.st = .copy)
    (hd : s.dialect = s'.dialect) (hs : s.src = s'.src) (hr : s.cpyRem = s'.cpyRem) :
    SameDecode s.countCopy s'.countCopy where
  toSameBuffers := { h with }
  st := by simp [hst, hst', hr]
  live := by by_cases h0 : s'.cpyRem - 1 = 0 <;> simp [SameLive, hst, hd, hs, hr, h0]

/-! ### The operations of the rows -/

theorem SameBuffers.litSetup (h : SameBuffers s s') (hd : s.dialect = s'.dialect) (p : BitVec 5) :
    SameDecode (litSetup p s) (litSetup p s') := by
  simp only [Machine.litSetup, h.n, h.ip, h.olen, h.exceeds]
  split_ifs
  · exact h.raise _
  · exact h.raise _
  · exact h.beginLiteral hd _

/-- `validate` accepts one length on both machines, and where it does neither accumulator has saturated: a
saturation point is above the capacity (decision D12). -/
theorem SameBuffers.validate (h : SameBuffers s s') (hd : s.dialect = s'.dialect) (ho : s.ofs = s'.ofs)
    (hl : SameLength s s') : SameDecode (validate s) (validate s') := by
  obtain ⟨x, hx, hx'⟩ := hl
  have hcap : s.cfg.exceeds (s.olen + s.len) = s'.cfg.exceeds (s'.olen + s'.len) := by
    rw [hx, hx', Config.exceeds_saturate _ _ h.legal, Config.exceeds_saturate _ _ h.legal', h.exceeds, h.olen]
  rw [Machine.validate, Machine.validate, hcap, h.olen, ho]
  split_ifs with hofs hover
  · exact h.raise _
  · exact h.raise _
  · have hfit' : s'.cfg.exceeds (s'.olen + s'.len) = false := by simpa using hover
    have hlen : s.len = x := hx.trans (Config.saturate_of_fits h.legal (hx ▸ hcap.trans hfit'))
    have hlen' : s'.len = x := hx'.trans (Config.saturate_of_fits h.legal' (hx' ▸ hfit'))
    exact h.beginCopy hd (hlen.trans hlen'.symm) _

theorem SameBuffers.headerStep (h : SameBuffers s s') (d : Dialect) (p : BitVec 5) :
    SameDecode (headerStep d p s) (headerStep d p s') :=
  (h.advance.latchHeader d p).litSetup rfl p

theorem SameBuffers.brefStep (h : SameBuffers s s') (hd : s.dialect = s'.dialect) (c : BitVec 3)
    (p : BitVec 5) : SameDecode (brefStep c p s) (brefStep c p s') where
  toSameBuffers := ((h.advance.latchControl c p).setLen _ _).goto _
  st := rfl
  live := by
    have hl : SameLength (Machine.brefStep c p s) (Machine.brefStep c p s') :=
      ⟨baseCopyLength c, rfl, rfl⟩
    by_cases hc : c = 7#3 <;> simpa [SameLive, Machine.brefStep, hc, hd] using hl

theorem SameBuffers.extendStep (h : SameBuffers s s') (hd : s.dialect = s'.dialect) (hp : s.prm = s'.prm)
    (hl : SameLength s s') (e : Byte) {f : FsmState} (hf : f = .ofs ∨ f = .lext) :
    SameDecode (extendStep e f s) (extendStep e f s') where
  toSameBuffers := (h.advance.setLen _ _).goto _
  st := rfl
  live := by
    obtain ⟨x, hx, hx'⟩ := hl
    have hl : SameLength (Machine.extendStep e f s) (Machine.extendStep e f s') :=
      ⟨x + e.toNat, by simp [Machine.extendStep, hx, Config.saturate_saturate_add],
        by simp [Machine.extendStep, hx', Config.saturate_saturate_add]⟩
    rcases hf with rfl | rfl <;> exact ⟨hd, hp, hl⟩

theorem SameBuffers.farTrigger (h : SameBuffers s s') (hd : s.dialect = s'.dialect) (hp : s.prm = s'.prm)
    (hl : SameLength s s') : SameDecode (farTrigger s) (farTrigger s') where
  toSameBuffers := by
    simpa only [Machine.farTrigger, hp] using (h.advance.setOfs (rawOffset s'.prm 0xFF#8)).goto .xhi
  st := rfl
  live := ⟨hd, congrArg (rawOffset · 0xFF#8) hp, hl⟩

theorem SameBuffers.farHigh (h : SameBuffers s s') (hd : s.dialect = s'.dialect) (ho : s.ofs = s'.ofs)
    (hl : SameLength s s') (xh : Byte) : SameDecode (farHigh xh s) (farHigh xh s') where
  toSameBuffers := (h.advance.setXhi xh).goto .xlo
  st := rfl
  live := ⟨hd, ho, rfl, hl⟩

theorem SameBuffers.farLow (h : SameBuffers s s') (hd : s.dialect = s'.dialect) (ho : s.ofs = s'.ofs)
    (hx : s.xhi = s'.xhi) (hl : SameLength s s') (xl : Byte) : SameDecode (farLow xl s) (farLow xl s') := by
  simp only [Machine.farLow, ho, hx]
  exact (h.advance.setOfs _).validate hd rfl hl

/-! ### One step -/

/-- Both machines decode their next byte in the same context. -/
theorem SameDecode.context (h : SameDecode s s') : s.context = s'.context := by
  have hlive := h.live
  unfold State.context
  rw [← h.st]
  cases hst : s.st <;> simp only [SameLive, hst] at hlive ⊢
  case ctrl => rw [hlive]
  case lext | ofs => simp only [hlive]

/-- Where the input ends both machines finish, or raise the same error (43_decode_loop R100). -/
theorem SameDecode.endOfInput (h : SameDecode s s') : SameDecode (endOfInput s) (endOfInput s') := by
  have hst' := h.st
  cases hst : s.st <;> rw [hst] at hst' <;> simp only [Machine.endOfInput, hst, ← hst']
  case ctrl => exact { h.goto .done with st := rfl, live := trivial }
  case hdr | lext | ofs | xhi | xlo => exact h.raise .truncatedInput
  case idle | lit | copy | done | err => exact h

/-- The meaning of one byte, read by both machines, keeps them at the same point. -/
theorem SameDecode.exec {t : State} {c : Context} {b : Byte} (h : SameDecode s s')
    (hc : s.context = some c) (ht : exec (decodeByte c b) s = .next t) :
    ∃ t', exec (decodeByte c b) s' = .next t' ∧ SameDecode t t' := by
  have hb := h.toSameBuffers
  have hlive := h.live
  -- Only the six states that read a byte have a context.
  cases hst : s.st <;> simp only [State.context, hst, Option.some.injEq, reduceCtorEq] at hc <;>
    simp only [SameLive, hst] at hlive <;> subst hc
  case hdr =>
    rw [exec_header] at ht ⊢
    cases ht
    refine ⟨_, rfl, ?_⟩
    split_ifs
    · exact hb.headerStep _ _
    · exact hb.headerStep _ _
    · exact hb.advance.raise _
  case ctrl =>
    rw [exec_control] at ht ⊢
    cases ht
    refine ⟨_, rfl, ?_⟩
    split_ifs
    · exact (hb.advance.latchControl _ _).litSetup hlive _
    · exact hb.brefStep hlive _ _
  case lext =>
    obtain ⟨hd, hp, hl⟩ := hlive
    rw [exec_lengthExt] at ht ⊢
    cases ht
    exact ⟨_, rfl, hb.extendStep hd hp hl _ (by split_ifs <;> simp)⟩
  case ofs =>
    obtain ⟨hd, hp, hl⟩ := hlive
    rw [exec_offset] at ht ⊢
    cases ht
    refine ⟨_, rfl, ?_⟩
    split_ifs
    · exact hb.farTrigger hd hp hl
    · rw [hp]
      exact (hb.advance.setOfs _).validate hd rfl hl
  case xhi =>
    obtain ⟨hd, ho, hl⟩ := hlive
    cases ht
    exact ⟨_, rfl, hb.farHigh hd ho hl b⟩
  case xlo =>
    obtain ⟨hd, ho, hx, hl⟩ := hlive
    cases ht
    exact ⟨_, rfl, hb.farLow hd ho hx hl b⟩

theorem SameDecode.literalStep {t : State} (h : SameDecode s s') (hst : s.st = .lit)
    (ht : literalStep s = .next t) : ∃ t', literalStep s' = .next t' ∧ SameDecode t t' := by
  obtain ⟨hz, v, hv, hfit, rfl⟩ := literalStep_next ht
  obtain ⟨hd, hr⟩ : s.dialect = s'.dialect ∧ s.litRem = s'.litRem := by simpa [SameLive, hst] using h.live
  have hb := h.toSameBuffers
  exact ⟨_, literalStep_of (hr ▸ hz) (h.ip ▸ hb.inRead hv) (h.olen ▸ hb.exceeds _ ▸ hfit),
    (hb.advance.append v).countLiteral hst (h.st ▸ hst) hd hr⟩

theorem SameDecode.copyStep {t : State} (h : SameDecode s s') (hst : s.st = .copy)
    (ht : copyStep s = .next t) : ∃ t', copyStep s' = .next t' ∧ SameDecode t t' := by
  obtain ⟨hz, v, hv, hfit, rfl⟩ := copyStep_next ht
  obtain ⟨hd, hs, hr⟩ : s.dialect = s'.dialect ∧ s.src = s'.src ∧ s.cpyRem = s'.cpyRem := by
    simpa [SameLive, hst] using h.live
  have hb := h.toSameBuffers
  exact ⟨_, copyStep_of (hr ▸ hz) (hs ▸ hb.outRead hv) (h.olen ▸ hb.exceeds _ ▸ hfit),
    (hb.append v).countCopy hst (h.st ▸ hst) hd hs hr⟩

end

/-! ### What `step` is in each FSM state -/

section

variable {s : State}

theorem step_of_rest (h : s.st = .idle ∨ s.st = .done ∨ s.st = .err) : step s = .next s := by
  rcases h with h | h | h <;> simp [step, State.fetch, State.context, h]

theorem step_of_lit (h : s.st = .lit) : step s = literalStep s := by
  simp [step, State.fetch, State.context, h]

theorem step_of_copy (h : s.st = .copy) : step s = copyStep s := by
  simp [step, State.fetch, State.context, h]

theorem step_of_end {c : Context} (hc : s.context = some c) (he : s.ip = s.n) :
    step s = .next (endOfInput s) := by
  simp [step, State.fetch, State.fetchByte, hc, he]

theorem step_of_byte {c : Context} {b : Byte} (hc : s.context = some c) (he : s.ip ≠ s.n)
    (hb : s.inRead s.ip = .ok b) : step s = exec (decodeByte c b) s := by
  simp [step, State.fetch, State.fetchByte, hc, he, hb]

theorem step_of_terminal (h : s.isTerminal = true) : step s = .next s :=
  step_of_rest (.inr (by simpa [State.isTerminal] using h))

theorem run_of_terminal (h : s.isTerminal = true) (k : Nat) : run k s = .next s := by
  induction k with
  | zero => rfl
  | succ k ih => rw [run_succ_of_step (step_of_terminal h), ih]

end

/-- A run has at most one terminal state. -/
theorem run_terminal_unique {s t u : State} {j k : Nat} (hj : run j s = .next t) (hk : run k s = .next u)
    (ht : t.isTerminal = true) (hu : u.isTerminal = true) : t = u := by
  wlog hjk : j ≤ k generalizing t u j k
  · exact (this hk hj hu ht (by omega)).symm
  obtain ⟨i, rfl⟩ := Nat.exists_eq_add_of_le hjk
  rw [run_add hj, run_of_terminal ht] at hk
  exact Host.Outcome.next.inj hk

/-! ### Two runs -/

/-- A step of one machine is a step of the other, to the same point of the decode. -/
theorem SameDecode.step {s s' t : State} (h : SameDecode s s') (ht : step s = .next t) :
    ∃ t', step s' = .next t' ∧ SameDecode t t' := by
  rcases step_cases ht with ⟨hst, rfl⟩ | ⟨hst, ht⟩ | ⟨hst, ht⟩ | ⟨c, hc, he, rfl⟩ | ⟨c, b, hc, he, hr, ht⟩
  · exact ⟨s', step_of_rest (h.st ▸ hst), h⟩
  · rw [step_of_lit (h.st ▸ hst)]
    exact h.literalStep hst ht
  · rw [step_of_copy (h.st ▸ hst)]
    exact h.copyStep hst ht
  · exact ⟨_, step_of_end (h.context ▸ hc) (h.ip ▸ h.n ▸ he), h.endOfInput⟩
  · rw [step_of_byte (h.context ▸ hc) (h.ip ▸ h.n ▸ he) (h.ip ▸ h.toSameBuffers.inRead hr)]
    exact h.exec hc ht

theorem SameDecode.run {s s' t : State} {k : Nat} (h : SameDecode s s') (ht : run k s = .next t) :
    ∃ t', run k s' = .next t' ∧ SameDecode t t' := by
  induction k generalizing s s' with
  | zero => cases ht; exact ⟨s', rfl, h⟩
  | succ k ih =>
    rw [Machine.run] at ht
    split at ht
    · next u hu =>
      obtain ⟨u', hu', huu'⟩ := h.step hu
      rw [run_succ_of_step hu']
      exact ih huu' ht
    · cases ht
    · cases ht

/-- Start makes any two legal machines of one capacity the same, whatever they held before (R106). -/
theorem sameDecode_load {s s' : State} (hl : s.cfg.legal = true) (hl' : s'.cfg.legal = true)
    (hcap : s.cfg.outMax = s'.cfg.outMax) (blk : List Byte) : SameDecode (s.load blk) (s'.load blk) where
  legal := hl
  legal' := hl'
  capacity := hcap
  ip := rfl
  n := rfl
  olen := rfl
  input := fun a ha => by
    simp only [State.load_n] at ha
    simp only [State.load_inMem, Memory.read_writeFrom_zero _ _ ha]
  output := fun a ha => absurd ha (Nat.not_lt_zero a)
  st := rfl
  live := trivial

theorem State.start_eq_load {s t : State} {blk : List Byte} (h : s.start blk = some t) : t = s.load blk := by
  unfold State.start at h
  split at h
  · exact (Option.some.inj h).symm
  · cases h

/-- The outcome reads only what two machines at the same point share. -/
theorem SameDecode.outcome {s s' : State} (h : SameDecode s s') : s.outcome = s'.outcome := by
  have hlive := h.live
  have hout : s.outMem.readFrom 0 s.olen = s'.outMem.readFrom 0 s'.olen := by
    rw [← h.olen]
    exact Memory.readFrom_congr 0 s.olen (fun j hj => by simpa using h.output j hj)
  unfold State.outcome
  rw [← h.st]
  cases hst : s.st <;> simp only [SameLive, hst] at hlive ⊢
  case done => rw [hout]
  case err => rw [hlive]

theorem SameDecode.isTerminal {s s' : State} (h : SameDecode s s') : s.isTerminal = s'.isTerminal := by
  rw [State.isTerminal, State.isTerminal, h.st]

end Machine

end Sys2Proof

section

open Sys2Proof Sys2Proof.Machine

/-- Settles O52: Start leaves the two machines at the same point of the same decode, every step of one is
matched by a step of the other (`SameDecode.step`), and a run ends in one terminal state only. -/
theorem outcomeDependsOnBlockAndCapacityOnly : Obligations.OutcomeDependsOnBlockAndCapacityOnly := by
  intro s s' s1 s1' t t' blk k k' hl hl' hcap hs hs' ht ht' hterm hterm'
  obtain rfl := State.start_eq_load hs
  obtain rfl := State.start_eq_load hs'
  obtain ⟨u, hu, htu⟩ := (sameDecode_load hl hl' hcap blk).run ht
  have hut' : u = t' := run_terminal_unique hu ht' (htu.isTerminal ▸ hterm) hterm'
  exact hut' ▸ htu.outcome

end

/-! SUPPORT. What the engine does with one byte, named once per FSM state, and what it leaves alone: the cursor
moves by the one byte, no buffer and no parameter changes, `err` is written on error entry only (10_state R15,
R26, 20_memory R35, R37). -/

namespace Sys2Proof.Machine

/-- Everything a byte can do in the state that reads it, one constructor for each operation it can start
(43_decode_loop R98). -/
inductive ByteStep (s : State) : State → Prop where
  | header (hst : s.st = .hdr) (d : Dialect) (p : BitVec 5) : ByteStep s (headerStep d p s)
  | invalid (hst : s.st = .hdr) : ByteStep s (headerInvalid s)
  | literal (hst : s.st = .ctrl) (p : BitVec 5) :
      ByteStep s (litSetup p (s.advance.latchControl 0#3 p))
  | backref (hst : s.st = .ctrl) (c : BitVec 3) (p : BitVec 5) (hc : c ≠ 0#3) : ByteStep s (brefStep c p s)
  | extend (hst : s.st = .lext) (e : Byte) (f : FsmState) (hf : f = .ofs ∨ f = .lext) :
      ByteStep s (extendStep e f s)
  | trigger (hst : s.st = .ofs) (hd : s.dialect = .typeOne) (hp : s.prm = 31#5) : ByteStep s (farTrigger s)
  | near (hst : s.st = .ofs) (lo : Byte) : ByteStep s (validate (s.advance.setOfs (rawOffset s.prm lo)))
  | extHigh (hst : s.st = .xhi) (xh : Byte) : ByteStep s (farHigh xh s)
  | extLow (hst : s.st = .xlo) (xl : Byte) : ByteStep s (farLow xl s)

/-- The meaning of a byte decoded in the state's own context. -/
theorem ByteStep.of_exec {s t : State} {c : Context} {b : Byte} (hc : s.context = some c)
    (h : exec (decodeByte c b) s = .next t) : ByteStep s t := by
  cases hst : s.st <;> simp only [State.context, hst, Option.some.injEq, reduceCtorEq] at hc <;> subst hc
  case hdr =>
    rw [exec_header] at h
    cases h
    split_ifs
    · exact .header hst _ _
    · exact .header hst _ _
    · exact .invalid hst
  case ctrl =>
    rw [exec_control] at h
    cases h
    split_ifs with h0
    · exact .literal hst _
    · exact .backref hst _ _ h0
  case lext =>
    rw [exec_lengthExt] at h
    cases h
    exact .extend hst _ _ (by split_ifs <;> simp)
  case ofs =>
    rw [exec_offset] at h
    cases h
    split_ifs with hf
    · obtain ⟨⟨hd, hp⟩, -⟩ : (s.dialect = .typeOne ∧ s.prm = 31#5) ∧ b = 0xFF#8 := by
        simpa [isFarTrigger] using hf
      exact .trigger hst hd hp
    · exact .near hst b
  case xhi => cases h; exact .extHigh hst b
  case xlo => cases h; exact .extLow hst b

/-- A state that decodes a byte is not `S_ERR`. -/
theorem State.st_ne_err_of_context {s : State} {c : Context} (hc : s.context = some c) : s.st ≠ .err := by
  intro hst
  simp [State.context, hst] at hc

/-- `t` has the parameters, the cursor and both buffers of `s`, and its `err` too unless it is in `S_ERR`. -/
structure KeepsBuffers (s t : State) : Prop where
  cfg : t.cfg = s.cfg
  ip : t.ip = s.ip
  n : t.n = s.n
  olen : t.olen = s.olen
  inMem : t.inMem = s.inMem
  outMem : t.outMem = s.outMem
  err : t.st ≠ .err → t.err = s.err

theorem keepsBuffers_raise (s : State) (k : ErrKind) : KeepsBuffers s (s.raise k) :=
  ⟨rfl, rfl, rfl, rfl, rfl, rfl, fun h => absurd rfl h⟩

theorem keepsBuffers_litSetup (p : BitVec 5) (s : State) : KeepsBuffers s (litSetup p s) := by
  rcases litSetup_cases p s with ⟨-, h⟩ | ⟨-, -, h⟩ | ⟨-, -, h⟩ <;> rw [h]
  · exact keepsBuffers_raise s _
  · exact keepsBuffers_raise s _
  · exact ⟨rfl, rfl, rfl, rfl, rfl, rfl, fun _ => rfl⟩

theorem keepsBuffers_validate (s : State) : KeepsBuffers s (validate s) := by
  rcases validate_cases s with ⟨-, h⟩ | ⟨-, -, h⟩ | ⟨-, -, h⟩ <;> rw [h]
  · exact keepsBuffers_raise s _
  · exact keepsBuffers_raise s _
  · exact ⟨rfl, rfl, rfl, rfl, rfl, rfl, fun _ => rfl⟩

theorem keepsBuffers_endOfInput (s : State) : KeepsBuffers s (endOfInput s) := by
  cases hst : s.st <;> simp only [endOfInput, hst]
  case hdr | lext | ofs | xhi | xlo => exact keepsBuffers_raise s _
  case ctrl | idle | lit | copy | done | err => exact ⟨rfl, rfl, rfl, rfl, rfl, rfl, fun _ => rfl⟩

theorem keepsBuffers_countLiteral (s : State) : KeepsBuffers s s.countLiteral :=
  ⟨rfl, rfl, rfl, rfl, rfl, rfl, fun _ => rfl⟩

theorem keepsBuffers_countCopy (s : State) : KeepsBuffers s s.countCopy :=
  ⟨rfl, rfl, rfl, rfl, rfl, rfl, fun _ => rfl⟩

/-- Reading a byte advances the cursor by one and writes control registers only. -/
theorem ByteStep.keepsBuffers {s t : State} (h : ByteStep s t) : KeepsBuffers s.advance t := by
  cases h with
  | header hst d p => exact { keepsBuffers_litSetup p (s.advance.latchHeader d p) with }
  | invalid hst => exact keepsBuffers_raise s.advance _
  | literal hst p => exact { keepsBuffers_litSetup p (s.advance.latchControl 0#3 p) with }
  | near hst lo => exact { keepsBuffers_validate (s.advance.setOfs (rawOffset s.prm lo)) with }
  | extLow hst xl => exact { keepsBuffers_validate (s.advance.setOfs (s.ofs + farExtension s.xhi xl)) with }
  | backref | extend | trigger | extHigh => exact ⟨rfl, rfl, rfl, rfl, rfl, rfl, fun _ => rfl⟩

/-! ### The dialect -/

@[simp] theorem litSetup_dialect (p : BitVec 5) (s : State) : (litSetup p s).dialect = s.dialect := by
  rcases litSetup_cases p s with ⟨-, h⟩ | ⟨-, -, h⟩ | ⟨-, -, h⟩ <;> rw [h] <;> rfl

@[simp] theorem validate_dialect (s : State) : (validate s).dialect = s.dialect := by
  rcases validate_cases s with ⟨-, h⟩ | ⟨-, -, h⟩ | ⟨-, -, h⟩ <;> rw [h] <;> rfl

@[simp] theorem endOfInput_dialect (s : State) : (endOfInput s).dialect = s.dialect := by
  unfold endOfInput; split <;> rfl

/-- Of the bytes only the header byte writes `dialect` (10_state R18). -/
theorem ByteStep.dialect {s t : State} (h : ByteStep s t) (hst : s.st ≠ .hdr) : t.dialect = s.dialect := by
  cases h with
  | header h | invalid h => exact absurd h hst
  | literal | near => simp
  | extLow => simp [farLow]
  | backref | extend | trigger | extHigh => rfl

end Sys2Proof.Machine

section

open Sys2Proof Sys2Proof.Machine

/-- Settles O35: a byte moves the cursor by one below `N` (`ByteStep.keepsBuffers`), so does a literal transfer,
and the other steps leave it. -/
theorem stepMovesTheCursorForwardByAtMostOne : Obligations.StepMovesTheCursorForwardByAtMostOne := by
  intro s t h
  rcases step_cases h with ⟨-, rfl⟩ | ⟨-, h⟩ | ⟨-, h⟩ | ⟨c, hc, he, rfl⟩ | ⟨c, b, hc, he, hr, h⟩
  · exact ⟨rfl, rfl, rfl, .inl rfl⟩
  · obtain ⟨-, v, hv, -, rfl⟩ := literalStep_next h
    exact ⟨rfl, rfl, rfl, .inr ⟨rfl, (State.inRead_ok_iff.mp hv).1⟩⟩
  · obtain ⟨-, v, -, -, rfl⟩ := copyStep_next h
    exact ⟨rfl, rfl, rfl, .inl rfl⟩
  · have hk := keepsBuffers_endOfInput s
    exact ⟨hk.cfg, hk.n, hk.inMem, .inl hk.ip⟩
  · have hk := (ByteStep.of_exec hc h).keepsBuffers
    exact ⟨hk.cfg, hk.n, hk.inMem, .inr ⟨hk.ip, (State.inRead_ok_iff.mp hr).1⟩⟩

/-- Settles O39: outside `S_HDR` no byte and no transfer writes `dialect`. -/
theorem onlyTheHeaderStepWritesDialect : Obligations.OnlyTheHeaderStepWritesDialect := by
  intro s t h hst
  rcases step_cases h with ⟨-, rfl⟩ | ⟨-, h⟩ | ⟨-, h⟩ | ⟨c, -, -, rfl⟩ | ⟨c, b, hc, -, -, h⟩
  · rfl
  · obtain ⟨-, v, -, -, rfl⟩ := literalStep_next h
    rfl
  · obtain ⟨-, v, -, -, rfl⟩ := copyStep_next h
    rfl
  · exact endOfInput_dialect s
  · exact (ByteStep.of_exec hc h).dialect hst

/-- Settles O55: one FSM state after the other. -/
theorem statusIsAFunctionOfTheFsmState : Obligations.StatusIsAFunctionOfTheFsmState := by
  intro s
  cases hst : s.st <;> simp [State.readStatus, State.status, hst, FsmState.status, Status.code]

end

/-! SUPPORT. The invariant of 10_state R33 as two halves: what holds in every FSM state, which one lemma per
buffer operation keeps, and what the present FSM state adds, which each operation establishes for the state
it enters. -/

namespace Sys2Proof

/-- A legal saturation point keeps a positive length positive (00_scope R1). -/
theorem Config.saturate_pos {c : Config} {x : Nat} (hl : c.legal = true) (hx : 1 ≤ x) :
    1 ≤ c.saturate x := by
  unfold Config.legal at hl
  unfold Config.saturate
  split at hl <;> simp_all
  omega

/-- A length that reaches a saturated one reaches it through the saturation point as well. -/
theorem Config.saturate_le_saturate {c : Config} {x y : Nat} (h : c.saturate x ≤ y) :
    c.saturate x ≤ c.saturate y := by
  have hidem : c.saturate (c.saturate x) = c.saturate x := c.saturate_saturate_add x 0
  exact hidem ▸ c.saturate_mono h

namespace Machine

/-- The half of the invariant that does not depend on the FSM state, but for `err`. -/
structure CommonInv (s : State) : Prop where
  legal : s.cfg.legal = true
  inWf : s.inMem.wf = true
  outWf : s.outMem.wf = true
  inWritten : ∀ a, a < s.n → (s.inMem.read a).isSome = true
  outWritten : ∀ a, a < s.olen → (s.outMem.read a).isSome = true
  cursor : s.ip ≤ s.n
  blockFits : s.n ≤ s.cfg.inMax
  outputFits : s.cfg.exceeds s.olen = false
  noError : s.st ≠ .err → s.err = 0#3

/-- Inside a backreference, from its control byte to its last offset byte. -/
structure Resolving (s : State) : Prop where
  written : 1 ≤ s.olen
  cls : s.cls ≠ 0#3
  length : s.cfg.saturate 3 ≤ s.len
  bound : s.olen + s.len ≤ 255 * s.ip

/-- What the present FSM state adds to `CommonInv`. -/
def StateInv (s : State) : Prop :=
  match s.st with
  | .idle => s.olen ≤ 255 * s.ip
  | .hdr => s.ip = 0 ∧ s.olen = 0
  | .ctrl => 1 ≤ s.olen ∧ s.olen ≤ 255 * s.ip
  | .lit => 1 ≤ s.litRem.toNat ∧ s.litRem.toNat ≤ 32 ∧ s.ip + s.litRem.toNat ≤ s.n ∧
      s.cfg.exceeds (s.olen + s.litRem.toNat) = false ∧ s.olen + s.litRem.toNat ≤ 255 * s.ip
  | .lext => Resolving s ∧ s.cls = 7#3
  | .ofs => Resolving s
  | .xhi | .xlo => Resolving s ∧ s.dialect = .typeOne ∧ s.ofs = 0x1FFF#17
  | .copy => 1 ≤ s.cpyRem ∧ s.src < s.olen ∧ s.cfg.exceeds (s.olen + s.cpyRem) = false ∧
      s.olen + s.cpyRem ≤ 255 * s.ip
  | .done => 1 ≤ s.olen ∧ s.ip = s.n ∧ s.olen ≤ 255 * s.ip
  | .err => (ErrKind.ofCode s.err).isSome = true ∧ s.olen ≤ 255 * s.ip

theorem State.pending_of_inResolver {s : State} (hst : s.st.inResolver = true) : s.pending = s.len := by
  unfold State.pending
  split <;> simp_all [FsmState.inResolver]

theorem Inv.commonInv {s : State} (h : Inv s) : CommonInv s := { h with }

theorem Inv.inResolver {s : State} (h : Inv s) (hst : s.st.inResolver = true) : Resolving s where
  written := h.afterHeader (.inr (.inl hst))
  cls := (h.resolving hst).1
  length := (h.resolving hst).2
  bound := State.pending_of_inResolver hst ▸ h.outputBound

theorem Inv.stateInv {s : State} (h : Inv s) : StateInv s := by
  have hb := h.outputBound
  unfold StateInv
  cases hst : s.st <;> simp only [State.pending, hst, Nat.add_zero] at hb ⊢
  case idle => exact hb
  case hdr => exact h.atHeader hst
  case ctrl => exact ⟨h.afterHeader (.inl hst), hb⟩
  case lit =>
    obtain ⟨hpos, hle, hin, hfit⟩ := h.literal hst
    exact ⟨hpos, hle, hin, hfit, hb⟩
  case lext => exact ⟨h.inResolver (hst ▸ rfl), h.extending hst⟩
  case ofs => exact h.inResolver (hst ▸ rfl)
  case xhi => exact ⟨h.inResolver (hst ▸ rfl), h.far (.inl hst)⟩
  case xlo => exact ⟨h.inResolver (hst ▸ rfl), h.far (.inr hst)⟩
  case copy =>
    obtain ⟨hpos, hsrc, hfit⟩ := h.copying hst
    exact ⟨hpos, hsrc, hfit, hb⟩
  case done => exact ⟨h.afterHeader (.inr (.inr (.inr hst))), h.finished hst, hb⟩
  case err => exact ⟨h.errorKind hst, hb⟩

theorem StateInv.resolving {s : State} (h : StateInv s) (hst : s.st.inResolver = true) : Resolving s := by
  unfold StateInv at h
  split at h <;> simp_all [FsmState.inResolver]

theorem StateInv.written {s : State} (h : StateInv s)
    (hst : s.st = .ctrl ∨ s.st.inResolver = true ∨ s.st = .copy ∨ s.st = .done) : 1 ≤ s.olen := by
  rcases hst with hst | hst | hst | hst
  · obtain ⟨hw, -⟩ := by simpa only [StateInv, hst] using h
    exact hw
  · exact (h.resolving hst).written
  · obtain ⟨-, hsrc, -⟩ := by simpa only [StateInv, hst] using h
    exact Nat.one_le_of_lt hsrc
  · obtain ⟨hw, -⟩ := by simpa only [StateInv, hst] using h
    exact hw

theorem StateInv.bound {s : State} (h : StateInv s) : s.olen + s.pending ≤ 255 * s.ip := by
  cases hres : s.st.inResolver
  case true => exact State.pending_of_inResolver hres ▸ (h.resolving hres).bound
  case false =>
    unfold StateInv at h
    unfold State.pending
    cases hst : s.st <;> simp only [hst, FsmState.inResolver, reduceCtorEq] at hres h ⊢ <;> omega

/-- The two halves are the whole invariant. -/
theorem CommonInv.inv {s : State} (h : CommonInv s) (hs : StateInv s) : Inv s :=
  { h with
    atHeader := fun hst => by simpa [StateInv, hst] using hs
    afterHeader := hs.written
    literal := fun hst => by
      obtain ⟨hpos, hle, hin, hfit, -⟩ := by simpa only [StateInv, hst] using hs
      exact ⟨hpos, hle, hin, hfit⟩
    copying := fun hst => by
      obtain ⟨hpos, hsrc, hfit, -⟩ := by simpa only [StateInv, hst] using hs
      exact ⟨hpos, hsrc, hfit⟩
    extending := fun hst => by
      obtain ⟨-, hcls⟩ := by simpa only [StateInv, hst] using hs
      exact hcls
    resolving := fun hst => ⟨(hs.resolving hst).cls, (hs.resolving hst).length⟩
    far := fun hst => by
      rcases hst with hst | hst <;> simp only [StateInv, hst] at hs <;> exact hs.2
    finished := fun hst => by
      obtain ⟨-, hend, -⟩ := by simpa only [StateInv, hst] using hs
      exact hend
    errorKind := fun hst => by
      obtain ⟨hkind, -⟩ := by simpa only [StateInv, hst] using hs
      exact hkind
    outputBound := hs.bound }

/-! ### The common half, one rule per operation on the buffers -/

section

variable {s t : State}

theorem CommonInv.keepsBuffers (h : CommonInv s) (hk : KeepsBuffers s t) (hst : s.st ≠ .err) :
    CommonInv t where
  legal := hk.cfg ▸ h.legal
  inWf := hk.inMem ▸ h.inWf
  outWf := hk.outMem ▸ h.outWf
  inWritten := hk.n ▸ hk.inMem ▸ h.inWritten
  outWritten := hk.olen ▸ hk.outMem ▸ h.outWritten
  cursor := hk.ip ▸ hk.n ▸ h.cursor
  blockFits := hk.cfg ▸ hk.n ▸ h.blockFits
  outputFits := hk.cfg ▸ hk.olen ▸ h.outputFits
  noError := fun ht => (hk.err ht).trans (h.noError hst)

theorem CommonInv.advance (h : CommonInv s) (hip : s.ip < s.n) : CommonInv s.advance :=
  { h with cursor := hip }

/-- Appending a byte that fits. -/
theorem CommonInv.append (h : CommonInv s) (hfit : s.cfg.exceeds (s.olen + 1) = false) (v : Byte) :
    CommonInv (s.grown (s.outMem.write s.olen v)) :=
  { h with
    outWf := Memory.wf_write _ _ h.outWf
    outputFits := hfit
    outWritten := by
      intro a ha
      simp only [State.grown_olen, State.grown_outMem, Memory.read_write] at ha ⊢
      split
      · rfl
      · exact h.outWritten a (by omega) }

/-! ### The half of the state an operation enters -/

@[simp] theorem ErrKind.ofCode_code (k : ErrKind) : ErrKind.ofCode k.code = some k := by
  cases k <;> rfl

theorem stateInv_raise (hb : s.olen ≤ 255 * s.ip) (k : ErrKind) : StateInv (s.raise k) :=
  ⟨by simp, hb⟩

/-- Literal setup enters `S_LIT` with at most 32 bytes to come, all present and all fitting, or raises. -/
theorem stateInv_litSetup (p : BitVec 5) (hb : s.olen + 32 ≤ 255 * s.ip) : StateInv (litSetup p s) := by
  have hraise : s.olen ≤ 255 * s.ip := by omega
  rcases litSetup_cases p s with ⟨-, h⟩ | ⟨-, -, h⟩ | ⟨hin, hfit, h⟩ <;> rw [h]
  · exact stateInv_raise hraise _
  · exact stateInv_raise hraise _
  · have hp := p.isLt
    unfold literalLength at hin
    simp only [StateInv, State.beginLiteral_st, State.beginLiteral_litRem, literalLength_in_litRem]
    refine ⟨?_, ?_, ?_, hfit, ?_⟩ <;> simp only [State.beginLiteral_ip, State.beginLiteral_n,
      State.beginLiteral_olen, literalLength] <;> omega

/-- `validate` enters `S_COPY` with a source below the output and a length that fits, or raises. -/
theorem stateInv_validate (hw : 1 ≤ s.olen) (hl : 1 ≤ s.len) (hb : s.olen + s.len ≤ 255 * s.ip) :
    StateInv (validate s) := by
  have hraise : s.olen ≤ 255 * s.ip := by omega
  rcases validate_cases s with ⟨-, h⟩ | ⟨-, -, h⟩ | ⟨-, hfit, h⟩ <;> rw [h]
  · exact stateInv_raise hraise _
  · exact stateInv_raise hraise _
  · have hsrc : s.olen - finalOffset s.ofs < s.olen := by unfold finalOffset; omega
    exact ⟨hl, hsrc, hfit, hb⟩

/-- Counting a literal byte stays in `S_LIT` with one byte less to come, or is at the control boundary. -/
theorem stateInv_countLiteral (hst : s.st = .lit) (hz : s.litRem ≠ 0#6) (hw : 1 ≤ s.olen)
    (hle : s.litRem.toNat ≤ 32) (hin : s.ip + (s.litRem.toNat - 1) ≤ s.n)
    (hfit : s.cfg.exceeds (s.olen + (s.litRem.toNat - 1)) = false)
    (hb : s.olen + (s.litRem.toNat - 1) ≤ 255 * s.ip) : StateInv s.countLiteral := by
  have hdec := litRem_sub_one_toNat hz
  by_cases h0 : s.litRem - 1#6 = 0#6
  · have hctrl : s.countLiteral.st = .ctrl := if_pos h0
    simp only [StateInv, hctrl]
    exact ⟨hw, Nat.le_of_add_right_le hb⟩
  · have hlit : s.countLiteral.st = .lit := (if_neg h0).trans hst
    have hne : (s.litRem - 1#6).toNat ≠ 0 := fun h => h0 (BitVec.eq_of_toNat_eq h)
    simp only [StateInv, hlit, State.countLiteral_litRem, hdec]
    exact ⟨by omega, by omega, hin, hfit, hb⟩

/-- Counting a copied byte stays in `S_COPY` with one byte less to come, or is at the control boundary. -/
theorem stateInv_countCopy (hst : s.st = .copy) (hsrc : s.src + 1 < s.olen)
    (hfit : s.cfg.exceeds (s.olen + (s.cpyRem - 1)) = false)
    (hb : s.olen + (s.cpyRem - 1) ≤ 255 * s.ip) : StateInv s.countCopy := by
  by_cases h0 : s.cpyRem - 1 = 0
  · have hctrl : s.countCopy.st = .ctrl := if_pos h0
    simp only [StateInv, hctrl]
    exact ⟨Nat.one_le_of_lt hsrc, Nat.le_of_add_right_le hb⟩
  · have hcopy : s.countCopy.st = .copy := (if_neg h0).trans hst
    simp only [StateInv, hcopy]
    exact ⟨Nat.one_le_iff_ne_zero.mpr h0, hsrc, hfit, hb⟩

/-! ### Inside a backreference -/

theorem Resolving.advance (h : Resolving s) : Resolving s.advance :=
  { h with bound := Nat.le_trans h.bound (Nat.mul_le_mul_left 255 (Nat.le_succ s.ip)) }

/-- The control byte of a backreference: a length of 3 to 9, up to saturation. -/
theorem resolving_brefStep {c : BitVec 3} (p : BitVec 5) (hw : 1 ≤ s.olen) (hb : s.olen ≤ 255 * s.ip)
    (hc : c ≠ 0#3) : Resolving (brefStep c p s) where
  written := hw
  cls := hc
  length := by
    have hpos : c.toNat ≠ 0 := fun h0 => hc (BitVec.eq_of_toNat_eq h0)
    exact s.cfg.saturate_mono (by unfold baseCopyLength; omega)
  bound := by
    have hlt := c.isLt
    have hle : s.cfg.saturate (baseCopyLength c) ≤ c.toNat + 2 := s.cfg.saturate_le _
    change s.olen + s.cfg.saturate (baseCopyLength c) ≤ 255 * (s.ip + 1)
    omega

/-- An extension byte adds at most the 255 output bytes that its input byte stands for. -/
theorem Resolving.extendStep (h : Resolving s) (e : Byte) (f : FsmState) : Resolving (extendStep e f s) where
  written := h.written
  cls := h.cls
  length := Config.saturate_le_saturate (Nat.le_add_right_of_le h.length)
  bound := by
    have hlt := e.isLt
    have hb := h.bound
    have hle := s.cfg.saturate_le (s.len + e.toNat)
    change s.olen + s.cfg.saturate (s.len + e.toNat) ≤ 255 * (s.ip + 1)
    omega

/-- The last offset byte: a complete backreference is validated. -/
theorem Resolving.validate (h : Resolving s) (hl : s.cfg.legal = true) (v : BitVec 17) :
    StateInv (validate (s.advance.setOfs v)) :=
  stateInv_validate h.written (Nat.le_trans (Config.saturate_pos hl (by omega)) h.length) h.advance.bound

/-! ### Every step -/

/-- A byte establishes what the state it enters asks for. -/
theorem ByteStep.stateInv (h : ByteStep s t) (hl : s.cfg.legal = true) (hs : StateInv s) : StateInv t := by
  cases h with
  | header hst d p =>
    obtain ⟨hip, hol⟩ : s.ip = 0 ∧ s.olen = 0 := by simpa only [StateInv, hst] using hs
    exact stateInv_litSetup p (by simp [hip, hol])
  | invalid hst =>
    obtain ⟨-, hol⟩ : s.ip = 0 ∧ s.olen = 0 := by simpa only [StateInv, hst] using hs
    exact stateInv_raise (by simp [hol]) _
  | literal hst p =>
    obtain ⟨-, hb⟩ : 1 ≤ s.olen ∧ s.olen ≤ 255 * s.ip := by simpa only [StateInv, hst] using hs
    exact stateInv_litSetup p (by simp; omega)
  | backref hst c p hc =>
    obtain ⟨hw, hb⟩ : 1 ≤ s.olen ∧ s.olen ≤ 255 * s.ip := by simpa only [StateInv, hst] using hs
    have hr := resolving_brefStep p hw hb hc
    by_cases h7 : c = 7#3
    · subst h7
      exact ⟨hr, rfl⟩
    · simpa [StateInv, Machine.brefStep, h7] using hr
  | extend hst e f hf =>
    obtain ⟨hr, hcls⟩ : Resolving s ∧ s.cls = 7#3 := by simpa only [StateInv, hst] using hs
    rcases hf with rfl | rfl
    · exact hr.extendStep e _
    · exact ⟨hr.extendStep e _, hcls⟩
  | trigger hst hd hp =>
    have hr : Resolving s := by simpa only [StateInv, hst] using hs
    have ho : rawOffset s.prm 0xFF#8 = 0x1FFF#17 := by rw [hp]; decide
    exact ⟨{ hr.advance with }, hd, ho⟩
  | near hst lo =>
    have hr : Resolving s := by simpa only [StateInv, hst] using hs
    exact hr.validate hl _
  | extHigh hst xh =>
    obtain ⟨hr, hfar⟩ : Resolving s ∧ s.dialect = .typeOne ∧ s.ofs = 0x1FFF#17 := by
      simpa only [StateInv, hst] using hs
    exact ⟨{ hr.advance with }, hfar⟩
  | extLow hst xl =>
    obtain ⟨hr, -⟩ : Resolving s ∧ s.dialect = .typeOne ∧ s.ofs = 0x1FFF#17 := by
      simpa only [StateInv, hst] using hs
    exact hr.validate hl _

/-- The end of the input: `S_DONE` from the control boundary, `TruncatedInput` from the others. -/
theorem stateInv_endOfInput (hs : StateInv s) (he : s.ip = s.n) : StateInv (endOfInput s) := by
  have hb : s.olen ≤ 255 * s.ip := Nat.le_of_add_right_le hs.bound
  cases hst : s.st <;> simp only [endOfInput, hst]
  case ctrl => exact ⟨hs.written (.inl hst), he, hb⟩
  case hdr | lext | ofs | xhi | xlo => exact stateInv_raise hb _
  case idle | lit | copy | done | err => exact hs

/-- A literal transfer keeps the invariant (40_classifier R77). -/
theorem Inv.literalStep (h : Inv s) (hst : s.st = .lit) (ht : literalStep s = .next t) : Inv t := by
  obtain ⟨hz, v, hv, hfit, rfl⟩ := literalStep_next ht
  obtain ⟨hpos, hle, hin, hfits, hb⟩ := by simpa only [StateInv, hst] using h.stateInv
  have hip : s.ip < s.n := (State.inRead_ok_iff.mp hv).1
  have hrem : s.olen + 1 + (s.litRem.toNat - 1) = s.olen + s.litRem.toNat := by omega
  have hin' : s.ip + 1 + (s.litRem.toNat - 1) ≤ s.n := by omega
  have hfits' : s.cfg.exceeds (s.olen + 1 + (s.litRem.toNat - 1)) = false := hrem ▸ hfits
  have hb' : s.olen + 1 + (s.litRem.toNat - 1) ≤ 255 * (s.ip + 1) := by omega
  have hcommon := (h.commonInv.append hfit v).advance hip
  exact (hcommon.keepsBuffers (keepsBuffers_countLiteral _) (by simp [hst])).inv
    (stateInv_countLiteral hst hz (Nat.le_add_left 1 _) hle hin' hfits' hb')

/-- A copy step keeps the invariant: the source stays below the output, which grows with it (42_copy R92). -/
theorem Inv.copyStep (h : Inv s) (hst : s.st = .copy) (ht : copyStep s = .next t) : Inv t := by
  obtain ⟨hz, v, -, hfit, rfl⟩ := copyStep_next ht
  obtain ⟨hpos, hsrc, hfits, hb⟩ := by simpa only [StateInv, hst] using h.stateInv
  have hrem : s.olen + 1 + (s.cpyRem - 1) = s.olen + s.cpyRem := by omega
  have hfits' : s.cfg.exceeds (s.olen + 1 + (s.cpyRem - 1)) = false := hrem ▸ hfits
  have hb' : s.olen + 1 + (s.cpyRem - 1) ≤ 255 * s.ip := hrem ▸ hb
  have hcommon := h.commonInv.append hfit v
  exact (hcommon.keepsBuffers (keepsBuffers_countCopy _) (by simp [hst])).inv
    (stateInv_countCopy hst (Nat.succ_lt_succ hsrc) hfits' hb')

end

end Machine

end Sys2Proof

section

open Sys2Proof Sys2Proof.Machine

/-- Settles O41: the transfers keep both halves of the invariant (`Inv.literalStep`, `Inv.copyStep`); a byte or
the end of the input keeps the buffers, and establishes what the state it enters adds. -/
theorem everyStepKeepsTheInvariant : Obligations.EveryStepKeepsTheInvariant := by
  intro s t hi h
  rcases step_cases h with ⟨-, rfl⟩ | ⟨hst, h⟩ | ⟨hst, h⟩ | ⟨c, hc, he, rfl⟩ | ⟨c, b, hc, he, hr, h⟩
  · exact hi
  · exact hi.literalStep hst h
  · exact hi.copyStep hst h
  · have hst := State.st_ne_err_of_context hc
    exact (hi.commonInv.keepsBuffers (keepsBuffers_endOfInput s) hst).inv (stateInv_endOfInput hi.stateInv he)
  · have hst := State.st_ne_err_of_context hc
    have hb := ByteStep.of_exec hc h
    have hip : s.ip < s.n := (State.inRead_ok_iff.mp hr).1
    exact ((hi.commonInv.advance hip).keepsBuffers hb.keepsBuffers hst).inv (hb.stateInv hi.legal hi.stateInv)

/-- Settles O40: nothing is written, nothing is pending and every register holds log 1's zero. -/
theorem invariantHoldsAfterReset : Obligations.InvariantHoldsAfterReset := by
  have hreset : ∀ c : Config, c.legal = true → Inv (State.resetWith c) := fun c hc => by
    refine CommonInv.inv ?_ (Nat.le_refl 0)
    constructor <;> simp [State.resetWith, hc]
  exact ⟨hreset, hreset Config.default (by decide)⟩

end

namespace Sys2Proof.Machine

/-- Start puts a block that fits IN below index `N` and empties the output (43_decode_loop R106, R107). -/
theorem Inv.start {s t : State} {blk : List Byte} (h : Inv s) (ht : s.start blk = some t) : Inv t := by
  have hlen : blk.length ≤ s.cfg.inMax := by
    unfold State.start at ht
    split at ht
    · next hcan => exact (by simpa [State.canStart] using hcan : _ ∧ blk.length ≤ s.cfg.inMax).2
    · cases ht
  obtain rfl := State.start_eq_load ht
  refine CommonInv.inv ?_ ⟨rfl, rfl⟩
  constructor
  case legal => exact h.legal
  case inWf => exact Memory.wf_writeFrom 0 blk h.inWf
  case outWf => exact h.outWf
  case inWritten =>
    intro a ha
    rw [State.load_inMem, Memory.read_writeFrom_zero _ _ ha]
    simpa using ha
  case outWritten => exact fun a ha => absurd ha (Nat.not_lt_zero a)
  case cursor => exact Nat.zero_le _
  case blockFits => exact hlen
  case outputFits => exact Config.exceeds_zero _
  case noError => exact fun _ => rfl

theorem State.move_engine_iff {s t : State} : s.move .engine = some t ↔ step s = .next t := by
  unfold State.move
  cases step s <;> simp

/-- A move that exists keeps the invariant. -/
theorem Inv.move {s t : State} {m : Move} (h : Inv s) (hm : s.move m = some t) : Inv t := by
  cases m with
  | engine => exact everyStepKeepsTheInvariant s t h (State.move_engine_iff.mp hm)
  | start blk => exact h.start hm
  | reset =>
    obtain rfl := Option.some.inj hm
    exact invariantHoldsAfterReset.1 s.cfg h.legal

/-- Every reachable state meets the invariant. -/
theorem Reachable.inv {s : State} (h : Reachable s) : Inv s := by
  induction h with
  | reset c hc => exact invariantHoldsAfterReset.1 c hc
  | move s t m _ hm ih => exact ih.move hm

theorem ErrKind.code_range_of_ofCode {c : BitVec 3} (h : (ErrKind.ofCode c).isSome = true) :
    1 ≤ c.toNat ∧ c.toNat ≤ 4 := by
  revert c; decide

end Sys2Proof.Machine

section

open Sys2Proof Sys2Proof.Machine

/-- Settles O42: `Inv.move` for the two moves of the host. -/
theorem hostMovesKeepTheInvariant : Obligations.HostMovesKeepTheInvariant :=
  fun _ _ _ hi _ hm => hi.move hm

/-- Settles O43: the bounds are clauses of the invariant, which every reachable state meets (`Reachable.inv`). -/
theorem reachableStatesMeetTheBounds : Obligations.ReachableStatesMeetTheBounds := by
  intro s hr
  have hi := hr.inv
  refine ⟨fun _ => ⟨hi.cursor, State.fits_iff.mpr hi.outputFits⟩, fun hst => ?_, fun hst => ?_, hi.extending,
    fun hst => (hi.far hst).1, fun hst => (hi.far (.inl hst)).2⟩
  · obtain ⟨hpos, hle, hin, hfit⟩ := hi.literal hst
    exact ⟨hpos, hle, hin, State.fits_iff.mpr hfit⟩
  · obtain ⟨hpos, hsrc, hfit⟩ := hi.copying hst
    exact ⟨hpos, hsrc, State.fits_iff.mpr hfit⟩

/-- Settles O38: a byte or the end of the input writes `err` only by entering `S_ERR` (`KeepsBuffers.err`), the
transfers never do, and a reachable state holds a code there and 0 elsewhere. -/
theorem errHoldsTheDecodesErrorCode : Obligations.ErrHoldsTheDecodesErrorCode := by
  refine ⟨fun s t h => ?_, fun s t blk hm => ?_, fun s t hm => ?_, fun s hr => ?_⟩
  · rcases step_cases h with ⟨-, rfl⟩ | ⟨-, h⟩ | ⟨-, h⟩ | ⟨c, hc, -, rfl⟩ | ⟨c, b, hc, -, -, h⟩
    · exact .inl rfl
    · obtain ⟨-, v, -, -, rfl⟩ := literalStep_next h
      exact .inl rfl
    · obtain ⟨-, v, -, -, rfl⟩ := copyStep_next h
      exact .inl rfl
    · have hk := keepsBuffers_endOfInput s
      exact (or_iff_not_imp_right.mpr hk.err).imp_right (And.intro (State.st_ne_err_of_context hc))
    · have hk := (ByteStep.of_exec hc h).keepsBuffers
      exact (or_iff_not_imp_right.mpr hk.err).imp_right (And.intro (State.st_ne_err_of_context hc))
  · obtain rfl := State.start_eq_load hm
    rfl
  · obtain rfl := Option.some.inj hm
    rfl
  · exact ⟨hr.inv.noError, fun hst => ErrKind.code_range_of_ofCode (hr.inv.errorKind hst)⟩

end

/-! SUPPORT. Where the accesses of the two buffers and the two transfer steps stop, and by which fault (20_memory
R34, 10_state R32, 00_scope R4), and that the invariant makes every access they need (10_state R33). -/

namespace Sys2Proof.Machine

section

variable {s : State} {a : Nat} {v : Byte} {f : Fault}

/-! ### The accesses -/

theorem State.inRead_of_beyond (h : s.n ≤ a) : s.inRead a = .error (.inReadBeyondBlock a) :=
  if_neg (Nat.not_lt.mpr h)

theorem State.inRead_of_unwritten (h : a < s.n) (hr : s.inMem.read a = none) :
    s.inRead a = .error (.inReadUnwritten a) := by
  simp [State.inRead, h, hr]

theorem State.inRead_of_written (h : a < s.n) (hr : (s.inMem.read a).isSome = true) :
    ∃ v, s.inRead a = .ok v := by
  obtain ⟨v, hv⟩ := Option.isSome_iff_exists.mp hr
  exact ⟨v, State.inRead_ok_iff.mpr ⟨h, hv⟩⟩

theorem State.outRead_of_beyond (h : s.olen ≤ a) : s.outRead a = .error (.outReadBeyondOutput a) :=
  if_neg (Nat.not_lt.mpr h)

theorem State.outRead_of_unwritten (h : a < s.olen) (hr : s.outMem.read a = none) :
    s.outRead a = .error (.outReadUnwritten a) := by
  simp [State.outRead, h, hr]

theorem State.outRead_of_written (h : a < s.olen) (hr : (s.outMem.read a).isSome = true) :
    ∃ v, s.outRead a = .ok v := by
  obtain ⟨v, hv⟩ := Option.isSome_iff_exists.mp hr
  exact ⟨v, State.outRead_ok_iff.mpr ⟨h, hv⟩⟩

theorem State.outAppend_of_exceeds (hc : s.cfg.exceeds (s.olen + 1) = true) (v : Byte) :
    s.outAppend v = .error (.outWriteBeyondCapacity s.olen) :=
  if_pos hc

/-! ### The literal transfer -/

theorem literalStep_of_zero (hz : s.litRem = 0#6) : literalStep s = .fault .countBelowZero :=
  if_pos hz

theorem literalStep_of_inRead_error (hz : s.litRem ≠ 0#6) (hr : s.inRead s.ip = .error f) :
    literalStep s = .fault f := by
  simp [literalStep, hz, hr]

theorem literalStep_of_exceeds (hz : s.litRem ≠ 0#6) (hv : s.inRead s.ip = .ok v)
    (hc : s.cfg.exceeds (s.olen + 1) = true) : literalStep s = .fault (.outWriteBeyondCapacity s.olen) := by
  have hu : s.advance.outAppend v = .error (.outWriteBeyondCapacity s.olen) :=
    State.outAppend_of_exceeds (s := s.advance) hc v
  simp [literalStep, hz, hv, hu]

/-! ### The copy step -/

theorem copyStep_of_zero (hz : s.cpyRem = 0) : copyStep s = .fault .countBelowZero :=
  if_pos hz

theorem copyStep_of_outRead_error (hz : s.cpyRem ≠ 0) (hr : s.outRead s.src = .error f) :
    copyStep s = .fault f := by
  simp [copyStep, hz, hr]

theorem copyStep_of_exceeds (hz : s.cpyRem ≠ 0) (hv : s.outRead s.src = .ok v)
    (hc : s.cfg.exceeds (s.olen + 1) = true) : copyStep s = .fault (.outWriteBeyondCapacity s.olen) := by
  simp [copyStep, hz, hv, State.outAppend_of_exceeds hc]

/-! ### Under the invariant -/

/-- A state rests, transfers or decodes a byte (43_decode_loop R98, R99). -/
theorem State.rest_or_transfer_or_context (s : State) :
    (s.st = .idle ∨ s.st = .done ∨ s.st = .err) ∨ s.st = .lit ∨ s.st = .copy ∨
      ∃ c, s.context = some c := by
  cases hst : s.st <;> simp [State.context, hst]

theorem Inv.literalStep_next (h : Inv s) (hst : s.st = .lit) : ∃ t, Machine.literalStep s = .next t := by
  obtain ⟨hpos, -, hin, hfit⟩ := h.literal hst
  have hz : s.litRem ≠ 0#6 := fun h0 => by simp [h0] at hpos
  have hip : s.ip < s.n := by omega
  obtain ⟨v, hv⟩ := State.inRead_of_written hip (h.inWritten s.ip hip)
  exact ⟨_, literalStep_of hz hv (Config.exceeds_mono hfit (Nat.add_le_add_left hpos _))⟩

theorem Inv.copyStep_next (h : Inv s) (hst : s.st = .copy) : ∃ t, Machine.copyStep s = .next t := by
  obtain ⟨hpos, hsrc, hfit⟩ := h.copying hst
  obtain ⟨v, hv⟩ := State.outRead_of_written hsrc (h.outWritten s.src hsrc)
  exact ⟨_, copyStep_of (Nat.one_le_iff_ne_zero.mp hpos) hv
    (Config.exceeds_mono hfit (Nat.add_le_add_left hpos _))⟩

/-- The byte at the cursor is in the block and written, unless the input has ended. -/
theorem Inv.byteStep_next {c : Context} (h : Inv s) (hc : s.context = some c) : ∃ t, step s = .next t := by
  by_cases he : s.ip = s.n
  · exact ⟨_, step_of_end hc he⟩
  · have hip : s.ip < s.n := Nat.lt_of_le_of_ne h.cursor he
    obtain ⟨b, hb⟩ := State.inRead_of_written hip (h.inWritten s.ip hip)
    rw [step_of_byte hc he hb]
    exact exec_next _ s

end

end Sys2Proof.Machine

section

open Sys2Proof Sys2Proof.Machine

/-- Settles O36: a transfer writes index `olen` alone, the other steps keep the buffers (`KeepsBuffers`). -/
theorem outputIsAppendOnly : Obligations.OutputIsAppendOnly := by
  intro s t h
  rcases step_cases h with ⟨-, rfl⟩ | ⟨hst, h⟩ | ⟨hst, h⟩ | ⟨c, -, -, rfl⟩ | ⟨c, b, hc, -, -, h⟩
  · exact .inl ⟨rfl, rfl⟩
  · obtain ⟨-, v, -, hfit, rfl⟩ := literalStep_next h
    exact .inr ⟨.inl hst, rfl, State.fits_iff.mpr hfit, by simp,
      fun a ha => Memory.read_write_other s.outMem s.olen a v ha⟩
  · obtain ⟨-, v, -, hfit, rfl⟩ := copyStep_next h
    exact .inr ⟨.inr hst, rfl, State.fits_iff.mpr hfit, by simp,
      fun a ha => Memory.read_write_other s.outMem s.olen a v ha⟩
  · have hk := keepsBuffers_endOfInput s
    exact .inl ⟨hk.olen, hk.outMem⟩
  · have hk := (ByteStep.of_exec hc h).keepsBuffers
    exact .inl ⟨hk.olen, hk.outMem⟩

/-- Settles O44: the invariant has every access of a transfer or a fetch in bounds, written and fitting. -/
theorem noStepStopsUnderTheInvariant : Obligations.NoStepStopsUnderTheInvariant := by
  intro s hi
  rcases s.rest_or_transfer_or_context with hst | hst | hst | ⟨c, hc⟩
  · exact ⟨s, step_of_rest hst⟩
  · exact step_of_lit hst ▸ hi.literalStep_next hst
  · exact step_of_copy hst ▸ hi.copyStep_next hst
  · exact hi.byteStep_next hc

/-- Settles O28: one lemma per fault of each transfer step. -/
theorem transferStepsStopByName : Obligations.TransferStepsStopByName := by
  intro s
  refine ⟨fun hst => ?_, fun hst => ?_⟩
  · rw [step_of_lit hst]
    refine ⟨literalStep_of_zero, fun hz hip => ?_, fun hz hip hr => ?_, fun hz hip hr hfit => ?_⟩
    · exact literalStep_of_inRead_error hz (State.inRead_of_beyond hip)
    · exact literalStep_of_inRead_error hz (State.inRead_of_unwritten hip hr)
    · obtain ⟨v, hv⟩ := State.inRead_of_written hip hr
      exact literalStep_of_exceeds hz hv (State.not_fits_iff.mp hfit)
  · rw [step_of_copy hst]
    refine ⟨copyStep_of_zero, fun hz hsrc => ?_, fun hz hsrc hr => ?_, fun hz hsrc hr hfit => ?_⟩
    · exact copyStep_of_outRead_error hz (State.outRead_of_beyond hsrc)
    · exact copyStep_of_outRead_error hz (State.outRead_of_unwritten hsrc hr)
    · obtain ⟨v, hv⟩ := State.outRead_of_written hsrc hr
      exact copyStep_of_exceeds hz hv (State.not_fits_iff.mp hfit)

end

/-! SUPPORT. The decoder and the encoder as inverses, context by context: the class of a byte as a range of
its values, and the trigger of the far form (30_encoding R50 to R64). -/

namespace Sys2Proof

/-- The class is the 32-value range that the byte lies in (R51, R52). -/
theorem classField_toNat (b : Byte) : (classField b).toNat = b.toNat / 32 := by
  have := b.isLt
  rw [classField, BitVec.extractLsb'_toNat, Nat.shiftRight_eq_div_pow, Nat.mod_eq_of_lt (by omega)]

/-- The range of class `k` starts at `32 * k` (R62). -/
theorem classField_of_range {b : Byte} (k : Nat) (hlo : 32 * k ≤ b.toNat) (hhi : b.toNat ≤ 32 * k + 31) :
    (classField b).toNat = k := by
  rw [classField_toNat]
  omega

/-- A byte of class `k` is `k` packed with its parameter field. -/
theorem packByte_paramField {b : Byte} {k : Nat} (h : (classField b).toNat = k) :
    packByte (BitVec.ofNat 3 k) (paramField b) = b := by
  rw [← h, BitVec.ofNat_toNat, BitVec.setWidth_eq, packByte_fields]

theorem isFarTrigger_iff {d : Dialect} {p : BitVec 5} {lo : Byte} :
    isFarTrigger d p lo = true ↔ d = .typeOne ∧ p = 31#5 ∧ lo = 0xFF#8 := by
  simp [isFarTrigger, and_assoc]

/-- The trigger as a number: 31 · 256 + 255 is the largest value of the offset field (R59, 41_resolver R84). -/
theorem isFarTrigger_iff_offset {d : Dialect} {p : BitVec 5} {lo : Byte} :
    isFarTrigger d p lo = true ↔ d = .typeOne ∧ p.toNat * 256 + lo.toNat = 0x1FFF := by
  have := p.isLt
  have := lo.isLt
  rw [isFarTrigger_iff, ← BitVec.toNat_inj, ← BitVec.toNat_inj]
  refine and_congr_right fun _ => ?_
  simp only [BitVec.toNat_ofNat]
  omega

/-- What stands in a context is well formed by itself. -/
theorem Instr.wf_of_wfIn {c : Context} {i : Instr} (h : i.wfIn c = true) : i.wf = true := by
  cases i with
  | lextT1End e =>
    rw [Instr.wfIn, Bool.and_eq_true] at h
    exact h.2
  | _ => rfl

/-! ### Encoding after decoding -/

/-- A tag has one header row, which keeps the parameter field (R51, R63). -/
theorem encodeByte_decodeHeader (b : Byte) : encodeByte (decodeHeader b) = b := by
  have hlt := (classField b).isLt
  unfold decodeHeader
  split
  case h_8 =>
    have h7 : (classField b).toNat = 7 := by simp only [imp_false] at *; omega
    exact packByte_paramField h7
  all_goals exact packByte_paramField ‹_›

/-- A class has one control row of the dialect, which keeps the parameter field (R52, R53). -/
theorem encodeByte_decodeControl (d : Dialect) (b : Byte) : encodeByte (decodeControl d b) = b := by
  have hlt := (classField b).isLt
  unfold decodeControl
  split
  case h_8 =>
    have h7 : (classField b).toNat = 7 := by simp only [imp_false] at *; omega
    cases d <;> exact packByte_paramField h7
  all_goals exact packByte_paramField ‹_›

theorem encodeByte_decodeByte (c : Context) (b : Byte) : encodeByte (decodeByte c b) = b := by
  cases c with
  | header => exact encodeByte_decodeHeader b
  | control d => exact encodeByte_decodeControl d b
  | lengthExt d =>
    cases d with
    | typeZero => rfl
    | typeOne =>
      by_cases hb : b = 0xFF#8 <;> simp [decodeByte, decodeLengthExt, encodeByte, hb]
  | offset d p =>
    by_cases hf : isFarTrigger d p b = true
    · obtain ⟨-, -, rfl⟩ := isFarTrigger_iff.mp hf
      simp [decodeByte, decodeOffset, encodeByte, encodeFarByte, hf]
    · simp [decodeByte, decodeOffset, encodeByte, hf]
  | farHigh => rfl
  | farLow => rfl

/-- A decoded byte is an instruction of the context it was decoded in (R62, R64). -/
theorem decodeByte_wfIn (c : Context) (b : Byte) : (decodeByte c b).wfIn c = true := by
  cases c with
  | header =>
    simp only [decodeByte, decodeHeader]
    split <;> rfl
  | control d =>
    simp only [decodeByte, decodeControl]
    split <;> cases d <;> rfl
  | lengthExt d =>
    cases d with
    | typeZero => rfl
    | typeOne =>
      by_cases hb : b = 0xFF#8 <;> simp [decodeByte, decodeLengthExt, Instr.wfIn, hb]
  | offset d p =>
    by_cases hf : isFarTrigger d p b = true
    · obtain ⟨rfl, rfl, -⟩ := isFarTrigger_iff.mp hf
      simp [decodeByte, decodeOffset, Instr.wfIn, FarByte.context, hf]
    · simp [decodeByte, decodeOffset, Instr.wfIn, hf]
  | farHigh => rfl
  | farLow => rfl

/-! ### Decoding after encoding -/

/-- In a context where it may stand, an instruction's byte decodes to it (R51 to R59). -/
theorem decodeByte_encodeByte {c : Context} {i : Instr} (h : i.wfIn c = true) :
    decodeByte c (encodeByte i) = i := by
  cases i
  case hdrT0 | hdrT1 | hdrInvalid2 | hdrInvalid3 | hdrInvalid4 | hdrInvalid5 | hdrInvalid6 | hdrInvalid7 =>
    obtain rfl : c = .header := by simpa [Instr.wfIn] using h
    simp [decodeByte, decodeHeader, encodeByte]
  case lit | brefC1 | brefC2 | brefC3 | brefC4 | brefC5 | brefC6 =>
    obtain ⟨d, rfl⟩ : ∃ d, c = .control d := by
      rcases (by simpa [Instr.wfIn] using h : c = .control .typeZero ∨ c = .control .typeOne) with rfl | rfl <;>
        exact ⟨_, rfl⟩
    simp [decodeByte, decodeControl, encodeByte]
  case brefC7T0 =>
    obtain rfl : c = .control .typeZero := by simpa [Instr.wfIn] using h
    simp [decodeByte, decodeControl, encodeByte]
  case brefC7T1 =>
    obtain rfl : c = .control .typeOne := by simpa [Instr.wfIn] using h
    simp [decodeByte, decodeControl, encodeByte]
  case lextT0 =>
    obtain rfl : c = .lengthExt .typeZero := by simpa [Instr.wfIn] using h
    rfl
  case lextT1More =>
    obtain rfl : c = .lengthExt .typeOne := by simpa [Instr.wfIn] using h
    rfl
  case lextT1End e =>
    obtain ⟨rfl, he⟩ : c = .lengthExt .typeOne ∧ e ≠ 0xFF#8 := by simpa [Instr.wfIn] using h
    simp [decodeByte, decodeLengthExt, encodeByte, he]
  case ofsNear lo =>
    cases c with
    | offset d p =>
      have hf : isFarTrigger d p lo = false := by simpa [Instr.wfIn] using h
      simp [decodeByte, decodeOffset, encodeByte, hf]
    | _ => cases h
  case ofsFarT1 far =>
    obtain rfl : c = far.context := by simpa [Instr.wfIn] using h
    cases far <;> rfl

end Sys2Proof

section

open Sys2Proof Sys2Proof.Machine

/-- Settles O1: an instruction is the one byte that decodes to it (`decodeByte_encodeByte`). -/
theorem decodeOfEncodeGivesTheInstruction : Obligations.DecodeOfEncodeGivesTheInstruction := by
  intro c i rest h
  rw [encode, List.singleton_append, decode, decodeByte_encodeByte h]

/-- Settles O2: the decoder's rows are rows of the context, and they keep every bit of the byte. -/
theorem everyByteIsAnInstructionOfItsContext : Obligations.EveryByteIsAnInstructionOfItsContext := by
  intro c b
  have hwf := decodeByte_wfIn c b
  exact ⟨hwf, Instr.wf_of_wfIn hwf, by rw [encode, encodeByte_decodeByte]⟩

/-- Settles O3: closed words, evaluated. -/
theorem writtenOutWordsDecode : Obligations.WrittenOutWordsDecode := by
  unfold Obligations.WrittenOutWordsDecode
  decide

/-- Settles O9: both are the number 0x1FFF in the offset field (`isFarTrigger_iff_offset`). -/
theorem farTriggerIsRawOffset1FFF : Obligations.FarTriggerIsRawOffset1FFF := by
  intro d p lo
  rw [isFarTrigger_iff_offset, ← BitVec.toNat_inj, rawOffset_toNat]
  rfl

end

namespace Sys2Proof.Machine

/-- A header byte with an unsupported tag raises `UnsupportedDialect` (40_classifier R73). -/
theorem exec_header_invalid {b : Byte} (h : 0x40 ≤ b.toNat) (s : State) :
    exec (decodeByte .header b) s = .next (headerInvalid s) := by
  have hc := classField_toNat b
  have h0 : classField b ≠ 0#3 := fun h0 => by simp only [h0, BitVec.toNat_ofNat] at hc; omega
  have h1 : classField b ≠ 1#3 := fun h1 => by simp only [h1, BitVec.toNat_ofNat] at hc; omega
  rw [exec_header, if_neg h0, if_neg h1]

/-- The header bytes with an unsupported tag (R63). -/
theorem decodeByte_header_invalid {b : Byte} (h : 0x40 ≤ b.toNat) :
    decodeByte .header b ∈ [.hdrInvalid2 (paramField b), .hdrInvalid3 (paramField b),
      .hdrInvalid4 (paramField b), .hdrInvalid5 (paramField b), .hdrInvalid6 (paramField b),
      .hdrInvalid7 (paramField b)] := by
  have hc := classField_toNat b
  simp only [decodeByte, decodeHeader]
  split
  case h_1 | h_2 => omega
  all_goals simp

end Sys2Proof.Machine

section

open Sys2Proof Sys2Proof.Machine

/-- Settles O4: a range of byte values is a class (`classField_of_range`), and a class has one row in a context. -/
theorem opcodeMapByContext : Obligations.OpcodeMapByContext := by
  intro b
  have hlt := b.isLt
  refine ⟨fun h => ?_, fun h h' => ?_, fun h => ⟨decodeByte_header_invalid h, exec_header_invalid h⟩,
    fun d => ⟨fun h => ?_, fun h h' => ?_, fun h h' => ?_, fun h h' => ?_, fun h h' => ?_, fun h h' => ?_,
      fun h h' => ?_⟩, fun h => ⟨?_, ?_⟩, fun s hst => ?_, rfl, fun h => ?_, fun h => ?_,
    fun d p => ⟨fun h => ?_, fun h => ?_⟩, rfl, rfl⟩
  · simp [decodeByte, decodeHeader, paramField, classField_of_range 0 (by omega) (by omega)]
  · simp [decodeByte, decodeHeader, paramField, classField_of_range 1 (by omega) (by omega)]
  · simp [decodeByte, decodeControl, paramField, classField_of_range 0 (by omega) (by omega)]
  · simp [decodeByte, decodeControl, paramField, classField_of_range 1 (by omega) (by omega)]
  · simp [decodeByte, decodeControl, paramField, classField_of_range 2 (by omega) (by omega)]
  · simp [decodeByte, decodeControl, paramField, classField_of_range 3 (by omega) (by omega)]
  · simp [decodeByte, decodeControl, paramField, classField_of_range 4 (by omega) (by omega)]
  · simp [decodeByte, decodeControl, paramField, classField_of_range 5 (by omega) (by omega)]
  · simp [decodeByte, decodeControl, paramField, classField_of_range 6 (by omega) (by omega)]
  · simp [decodeByte, decodeControl, paramField, classField_of_range 7 (by omega) (by omega)]
  · simp [decodeByte, decodeControl, paramField, classField_of_range 7 (by omega) (by omega)]
  · simp [State.context, hst]
  · simp [decodeByte, decodeLengthExt, h]
  · simp [decodeByte, decodeLengthExt, h]
  · simp [decodeByte, decodeOffset, isFarTrigger_iff.mpr h]
  · simp [decodeByte, decodeOffset, isFarTrigger_iff, h]

end

/-! SUPPORT. Whole segments: the readers give back the parts of a well-formed segment (30_encoding R54 to R59,
R61), the ranges of its operands (R60), and what the pseudo-instructions expand to (R68). -/

namespace Sys2Proof.Machine

section

variable {d : Dialect} {p : BitVec 5} {lo : Byte} {far : Option (Byte × Byte)}

/-! ### Well-formed segments -/

theorem Segment.wf_hdr {d' : Dialect} {data : List Byte} :
    (Segment.hdr d' data).wf d = true ↔ d' = d ∧ 1 ≤ data.length ∧ data.length ≤ 32 := by
  simp only [Segment.wf, Bool.and_eq_true, beq_iff_eq, decide_eq_true_eq, and_assoc]

theorem Segment.wf_lit {data : List Byte} :
    (Segment.lit data).wf d = true ↔ 1 ≤ data.length ∧ data.length ≤ 32 := by
  simp only [Segment.wf, Bool.and_eq_true, decide_eq_true_eq]

theorem Segment.wf_bref {c : BitVec 3} :
    (Segment.bref c p lo far).wf d = true ↔ (c ≠ 0#3 ∧ c ≠ 7#3) ∧ far.isSome = isFarTrigger d p lo := by
  simp [Segment.wf]

theorem Segment.wf_bref7 {xs : List Byte} :
    (Segment.bref7 p xs lo far).wf d = true ↔ isChain d xs = true ∧ far.isSome = isFarTrigger d p lo := by
  simp [Segment.wf]

/-- A chain is one ending byte, or in TypeOne 0xFF before a chain (R56, R57). -/
theorem isChain_cons {x : Byte} {xs : List Byte} :
    isChain d (x :: xs) = true ↔
      (xs = [] ∧ (d = .typeZero ∨ x ≠ 0xFF#8)) ∨ (d = .typeOne ∧ x = 0xFF#8 ∧ isChain d xs = true) := by
  cases xs <;> simp [isChain, and_assoc]

/-- TypeZero has one extension byte (R56). -/
theorem eq_singleton_of_isChain_typeZero {xs : List Byte} (h : isChain .typeZero xs = true) :
    ∃ x, xs = [x] := by
  cases xs with
  | nil => cases h
  | cons x xs => simpa [isChain_cons] using h

/-! ### Reading back -/

/-- The parameter field of a literal of 1 to 32 bytes holds its length (R54). -/
theorem literalLength_ofNat {n : Nat} (hpos : 1 ≤ n) (hle : n ≤ 32) :
    literalLength (BitVec.ofNat 5 (n - 1)) = n := by
  simp only [literalLength, BitVec.toNat_ofNat]
  omega

theorem readData_append {data : List Byte} (rest : List Byte) (hpos : 1 ≤ data.length)
    (hle : data.length ≤ 32) :
    readData (BitVec.ofNat 5 (data.length - 1)) (data ++ rest) = .ok (data, rest) := by
  simp [readData, literalLength_ofNat hpos hle]

theorem readChain_append {xs : List Byte} (rest : List Byte) (h : isChain d xs = true) :
    readChain d (xs ++ rest) = .ok (xs, rest) := by
  induction xs with
  | nil => cases h
  | cons x xs ih =>
    rcases isChain_cons.mp h with ⟨rfl, hend⟩ | ⟨rfl, rfl, hxs⟩
    · simp [readChain, hend]
    · simp [readChain, ih hxs]

theorem readOffset_append (rest : List Byte) (h : far.isSome = isFarTrigger d p lo) :
    readOffset d p (lo :: (farBytes far ++ rest)) = .ok (lo, far, rest) := by
  cases far <;> simp [readOffset, farBytes, ← h]

/-! ### The operands of a backreference -/

theorem Segment.copyLength_range {seg : Segment} {l : Nat} (h : seg.wf d = true)
    (hl : seg.copyLength = some l) : 3 ≤ l ∧ (d = .typeZero → l ≤ 264) := by
  cases seg with
  | hdr | lit => cases hl
  | bref c p lo far =>
    cases hl
    obtain ⟨⟨hc, -⟩, -⟩ := Segment.wf_bref.mp h
    have hlt := c.isLt
    have h0 : c.toNat ≠ 0 := fun h0 => hc (BitVec.eq_of_toNat_eq h0)
    omega
  | bref7 p xs lo far =>
    cases hl
    obtain ⟨hxs, -⟩ := Segment.wf_bref7.mp h
    refine ⟨by omega, fun hd => ?_⟩
    subst hd
    obtain ⟨x, rfl⟩ := eq_singleton_of_isChain_typeZero hxs
    have hlt := x.isLt
    simp only [byteSum]
    omega

/-- The near form reaches 8192; the far form is TypeOne's and adds up to 0xFFFF to 0x1FFF (R59, R60). -/
theorem offsetDistance_range (h : far.isSome = isFarTrigger d p lo) :
    1 ≤ offsetDistance p lo far ∧ (d = .typeZero → offsetDistance p lo far ≤ 8192) ∧
      (d = .typeOne → offsetDistance p lo far ≤ 73727) := by
  match far with
  | none =>
    have hp := p.isLt
    have hlo := lo.isLt
    simp only [offsetDistance]
    omega
  | some (xh, xl) =>
    have hxh := xh.isLt
    have hxl := xl.isLt
    obtain ⟨rfl, hoffset⟩ := isFarTrigger_iff_offset.mp h.symm
    refine ⟨Nat.le_add_left 1 _, nofun, fun _ => ?_⟩
    simp only [offsetDistance]
    omega

theorem Segment.distance_range {seg : Segment} {k : Nat} (h : seg.wf d = true)
    (hk : seg.distance = some k) : 1 ≤ k ∧ (d = .typeZero → k ≤ 8192) ∧ (d = .typeOne → k ≤ 73727) := by
  cases seg with
  | hdr | lit => cases hk
  | bref => cases hk; exact offsetDistance_range (Segment.wf_bref.mp h).2
  | bref7 => cases hk; exact offsetDistance_range (Segment.wf_bref7.mp h).2

/-! ### COPY -/

/-- The offset fields stand for the raw offset they were made from, with the far suffix where they trigger it. -/
theorem offsetFields_spec {r : Nat} (h : offsetFields d r = some (p, lo, far)) :
    far.isSome = isFarTrigger d p lo ∧ offsetDistance p lo far = r + 1 := by
  unfold offsetFields at h
  split_ifs at h with hnear hfar
  · cases h
    have hoffset : (BitVec.ofNat 5 (r / 256)).toNat * 256 + (BitVec.ofNat 8 r).toNat = r := by
      simp only [BitVec.toNat_ofNat]
      omega
    refine ⟨?_, by rw [offsetDistance, hoffset]⟩
    rw [Option.isSome_none, eq_comm, Bool.eq_false_iff, ne_eq, isFarTrigger_iff_offset, hoffset]
    rintro ⟨rfl, rfl⟩
    simp at hnear
  · cases h
    obtain ⟨rfl, hle⟩ := hfar
    refine ⟨rfl, ?_⟩
    simp only [offsetDistance, BitVec.toNat_ofNat]
    omega

/-- Every raw offset of a distance in the dialect's range has fields. -/
theorem offsetFields_isSome {r : Nat} (h0 : d = .typeZero → r < 8192) (h1 : d = .typeOne → r < 73727) :
    (offsetFields d r).isSome = true := by
  unfold offsetFields
  split_ifs with hnear hfar
  · rfl
  · rfl
  · cases d
    · simp at hnear h0; omega
    · simp at hfar h1; omega

/-- The far form is TypeOne's alone (R59). -/
theorem offsetFields_typeZero_eq_none {r : Nat} (h : 8192 ≤ r) : offsetFields .typeZero r = none := by
  rw [offsetFields, if_neg (by simp; omega), if_neg (by simp)]

theorem isChain_replicate_append (n : Nat) {x : Byte} (h : x ≠ 0xFF#8) :
    isChain .typeOne (List.replicate n 0xFF#8 ++ [x]) = true := by
  induction n with
  | zero => simp [isChain_cons, h]
  | succ n ih => simpa [List.replicate_succ, isChain_cons] using ih

theorem byteSum_replicate_append (n : Nat) (x : Byte) :
    byteSum (List.replicate n 0xFF#8 ++ [x]) = n * 255 + x.toNat := by
  induction n with
  | zero => simp [byteSum]
  | succ n ih => simp [List.replicate_succ, byteSum, ih]; omega

/-- The classes 1 to 6 stand for the lengths 3 to 8 (R53). -/
theorem shortClass_spec {l : Nat} (hl : 3 ≤ l) (h8 : l ≤ 8) :
    (BitVec.ofNat 3 (l - 2) ≠ 0#3 ∧ BitVec.ofNat 3 (l - 2) ≠ 7#3) ∧
      (BitVec.ofNat 3 (l - 2)).toNat + 2 = l := by
  simp only [ne_eq, ← BitVec.toNat_inj, BitVec.toNat_ofNat]
  omega

/-- The extension bytes of a length are a chain that adds to it (R56, R57). -/
theorem chainFor_spec {l : Nat} {xs : List Byte} (hl : 9 ≤ l) (h : chainFor d l = some xs) :
    isChain d xs = true ∧ 7 + byteSum xs + 2 = l := by
  cases d with
  | typeZero =>
    obtain ⟨hle, rfl⟩ : l ≤ 264 ∧ [BitVec.ofNat 8 (l - 9)] = xs := by simpa [chainFor] using h
    refine ⟨rfl, ?_⟩
    simp only [byteSum, BitVec.toNat_ofNat]
    omega
  | typeOne =>
    cases h
    have hx : (BitVec.ofNat 8 ((l - 9) % 255)).toNat = (l - 9) % 255 := by
      simp only [BitVec.toNat_ofNat]
      omega
    have hend : BitVec.ofNat 8 ((l - 9) % 255) ≠ 0xFF#8 := fun h255 => by
      rw [h255] at hx
      simp only [BitVec.toNat_ofNat] at hx
      omega
    refine ⟨isChain_replicate_append _ hend, ?_⟩
    rw [byteSum_replicate_append, hx]
    omega

theorem chainFor_isSome {l : Nat} (h : d = .typeZero → l ≤ 264) : (chainFor d l).isSome = true := by
  cases d with
  | typeZero => simp [chainFor, h rfl]
  | typeOne => rfl

/-- Everything COPY expands to: offset fields of the distance, with a class of 1 to 6 or with a chain (R68). -/
theorem copySegment_cases {l dist : Nat} {seg : Segment} (h : copySegment d l dist = some seg) :
    3 ≤ l ∧ 1 ≤ dist ∧ ∃ p lo far, offsetFields d (dist - 1) = some (p, lo, far) ∧
      ((l ≤ 8 ∧ seg = .bref (BitVec.ofNat 3 (l - 2)) p lo far) ∨
        (9 ≤ l ∧ ∃ xs, chainFor d l = some xs ∧ seg = .bref7 p xs lo far)) := by
  unfold copySegment at h
  split at h
  · cases h
  · next hrange =>
    split at h
    · cases h
    · next p lo far hfields =>
      refine ⟨by omega, by omega, p, lo, far, hfields, ?_⟩
      split at h
      · next h8 => exact .inl ⟨h8, (Option.some.inj h).symm⟩
      · next h8 =>
        obtain ⟨xs, hxs, rfl⟩ := Option.map_eq_some_iff.mp h
        exact .inr ⟨by omega, xs, hxs, rfl⟩

theorem copySegment_isSome {l dist : Nat} (hl : 3 ≤ l) (hdist : 1 ≤ dist)
    (hfields : (offsetFields d (dist - 1)).isSome = true) (hchain : (chainFor d l).isSome = true) :
    (copySegment d l dist).isSome = true := by
  obtain ⟨⟨p, lo, far⟩, hf⟩ := Option.isSome_iff_exists.mp hfields
  rw [copySegment, if_neg (by omega)]
  simp only [hf]
  split
  · rfl
  · rwa [Option.isSome_map]

/-! ### LITS -/

theorem litsWithFuel_of_ne_nil (fuel : Nat) {str : List Byte} (h : str ≠ []) :
    litsWithFuel (fuel + 1) str = .lit (str.take 32) :: litsWithFuel fuel (str.drop 32) := by
  cases str with
  | nil => exact absurd rfl h
  | cons b rest => rfl

@[simp] theorem litsWithFuel_nil (fuel : Nat) : litsWithFuel fuel [] = [] := by
  cases fuel <;> rfl

/-- One segment for each byte is fuel enough, since a segment takes at least one byte. -/
theorem litsWithFuel_flatMap_data (fuel : Nat) {str : List Byte} (h : str.length ≤ fuel) :
    (litsWithFuel fuel str).flatMap Segment.data = str := by
  induction fuel generalizing str with
  | zero => simp_all
  | succ fuel ih =>
    by_cases hnil : str = []
    · simp [hnil]
    · have hdrop : (str.drop 32).length ≤ fuel := by rw [List.length_drop]; omega
      rw [litsWithFuel_of_ne_nil fuel hnil, List.flatMap_cons, ih hdrop, Segment.data, List.take_append_drop]

theorem litsWithFuel_mem {fuel : Nat} {str : List Byte} {seg : Segment} (h : seg ∈ litsWithFuel fuel str) :
    ∃ data, seg = .lit data ∧ 1 ≤ data.length ∧ data.length ≤ 32 := by
  induction fuel generalizing str with
  | zero => cases h
  | succ fuel ih =>
    by_cases hnil : str = []
    · simp [hnil] at h
    · rw [litsWithFuel_of_ne_nil fuel hnil, List.mem_cons] at h
      rcases h with rfl | h
      · have hpos := List.length_pos_iff.mpr hnil
        exact ⟨_, rfl, by rw [List.length_take]; omega, List.length_take_le 32 str⟩
      · exact ih h

/-- A segment with another after it left bytes over, so it is a full one. -/
theorem litsWithFuel_data_length {fuel k : Nat} {str : List Byte} {seg : Segment}
    (hk : k + 1 < (litsWithFuel fuel str).length) (h : (litsWithFuel fuel str)[k]? = some seg) :
    seg.data.length = 32 := by
  induction fuel generalizing str k with
  | zero => cases hk
  | succ fuel ih =>
    by_cases hnil : str = []
    · simp [hnil] at h
    · rw [litsWithFuel_of_ne_nil fuel hnil] at hk h
      rw [List.length_cons, Nat.add_lt_add_iff_right] at hk
      cases k with
      | zero =>
        obtain rfl : Segment.lit (str.take 32) = seg := by simpa using h
        have hrest : str.drop 32 ≠ [] := fun h0 => by simp [h0] at hk
        have hlong : 32 < str.length := by simpa using hrest
        rw [Segment.data, List.length_take]
        omega
      | succ k => exact ih hk (by simpa using h)

end

end Sys2Proof.Machine

section

open Sys2Proof Sys2Proof.Machine

/-- Settles O5: each part is read back with what follows it left over (`readData_append`, `readChain_append`,
`readOffset_append`). -/
theorem segmentBytesReadBack : Obligations.SegmentBytesReadBack := by
  intro d seg rest h
  cases seg with
  | hdr d' data =>
    obtain ⟨rfl, hpos, hle⟩ := Segment.wf_hdr.mp h
    refine ⟨nofun, fun _ => ?_⟩
    cases d' <;> simp [readHeader, Segment.bytes, dialectTag, readData_append rest hpos hle]
  | lit data =>
    obtain ⟨hpos, hle⟩ := Segment.wf_lit.mp h
    refine ⟨fun _ => ?_, nofun⟩
    simp [readSegment, Segment.bytes, readData_append rest hpos hle]
  | bref c p lo far =>
    obtain ⟨⟨h0, h7⟩, hfar⟩ := Segment.wf_bref.mp h
    refine ⟨fun _ => ?_, nofun⟩
    simp [readSegment, Segment.bytes, h0, h7, readOffset_append rest hfar]
  | bref7 p xs lo far =>
    obtain ⟨hxs, hfar⟩ := Segment.wf_bref7.mp h
    refine ⟨fun _ => ?_, nofun⟩
    simp [readSegment, Segment.bytes, readChain_append _ hxs, readOffset_append rest hfar]

/-- Settles O6: the ranges of the two operands of a backreference; a segment without a copy length is a
literal of 1 to 32 bytes. -/
theorem segmentOperandRanges : Obligations.SegmentOperandRanges := by
  intro d seg h
  refine ⟨fun l hl => Segment.copyLength_range h hl, fun k hk => Segment.distance_range h hk, fun hl => ?_⟩
  cases seg with
  | hdr d' data => exact (Segment.wf_hdr.mp h).2
  | lit data => exact Segment.wf_lit.mp h
  | bref | bref7 => cases hl

/-- Settles O7: the fields and the chain stand for the operands they were made from (`offsetFields_spec`,
`chainFor_spec`), and exist in the whole range of the dialect. -/
theorem copyPseudoInstructionExpands : Obligations.CopyPseudoInstructionExpands := by
  intro d l dist
  refine ⟨fun seg h => ?_, fun hl hdist h0 h1 => ?_, fun hd hfar => ?_⟩
  · obtain ⟨hl, hdist, p, lo, far, hfields, hseg⟩ := copySegment_cases h
    obtain ⟨hsome, hoffset⟩ := offsetFields_spec hfields
    have hdistance : offsetDistance p lo far = dist := by omega
    rcases hseg with ⟨h8, rfl⟩ | ⟨h9, xs, hxs, rfl⟩
    · obtain ⟨hclass, hlength⟩ := shortClass_spec hl h8
      exact ⟨Segment.wf_bref.mpr ⟨hclass, hsome⟩, rfl, congrArg some hlength, congrArg some hdistance⟩
    · obtain ⟨hchain, hlength⟩ := chainFor_spec h9 hxs
      exact ⟨Segment.wf_bref7.mpr ⟨hchain, hsome⟩, rfl, congrArg some hlength, congrArg some hdistance⟩
  · exact copySegment_isSome hl hdist
      (offsetFields_isSome (fun hd => by have := h0 hd; omega) (fun hd => by have := h1 hd; omega))
      (chainFor_isSome fun hd => (h0 hd).1)
  · subst hd
    rw [Option.eq_none_iff_forall_ne_some]
    intro seg h
    obtain ⟨-, -, p, lo, far, hfields, -⟩ := copySegment_cases h
    rw [offsetFields_typeZero_eq_none (by omega)] at hfields
    cases hfields

/-- Settles O8: the string is cut 32 bytes at a time until nothing is left. -/
theorem litsPseudoInstructionExpands : Obligations.LitsPseudoInstructionExpands := by
  intro d str
  refine ⟨litsWithFuel_flatMap_data _ le_rfl, fun seg h => ?_, fun k seg hk h => litsWithFuel_data_length hk h⟩
  obtain ⟨data, rfl, hlen⟩ := litsWithFuel_mem h
  exact ⟨Segment.wf_lit.mpr hlen, data, rfl⟩

end

/-! SUPPORT. The rows that 40_classifier reads, each as the operation it starts: the outcomes of literal setup
(R74), what the setup and the transfers write, and the run of a whole literal (R71 to R78). -/

namespace Sys2Proof

theorem Config.saturate_of_none {c : Config} (h : c.lenSat = none) (x : Nat) : c.saturate x = x := by
  simp [Config.saturate, h]

theorem Config.saturate_of_some {c : Config} {m : Nat} (h : c.lenSat = some m) (x : Nat) :
    c.saturate x = min x m := by
  simp [Config.saturate, h]

namespace Machine

section

variable {s : State} {p : BitVec 5}

/-! ### Literal setup -/

theorem litSetup_of_fits (hin : literalLength p ≤ s.n - s.ip) (hfit : s.Fits (literalLength p)) :
    litSetup p s = s.beginLiteral (literalLength p) := by
  simp [litSetup, Nat.not_lt.mpr hin, State.fits_iff.mp hfit]

theorem litSetup_of_truncated (hin : s.n - s.ip < literalLength p) :
    litSetup p s = s.raise .truncatedInput :=
  if_pos hin

theorem litSetup_of_not_fits (hin : literalLength p ≤ s.n - s.ip) (hfit : ¬ s.Fits (literalLength p)) :
    litSetup p s = s.raise .outputOverflow := by
  simp [litSetup, Nat.not_lt.mpr hin, State.not_fits_iff.mp hfit]

/-- Literal setup writes three registers: `err` only when it raises, `lit_rem` only when it does not. -/
theorem litSetup_writes (p : BitVec 5) (s : State) :
    ∃ l f e, litSetup p s = { s with litRem := l, st := f, err := e } ∧
      (f ≠ .err → e = s.err) ∧ (f = .err → l = s.litRem) := by
  rcases litSetup_cases p s with ⟨-, h⟩ | ⟨-, -, h⟩ | ⟨-, -, h⟩
  · exact ⟨_, _, _, h, fun hf => absurd rfl hf, fun _ => rfl⟩
  · exact ⟨_, _, _, h, fun hf => absurd rfl hf, fun _ => rfl⟩
  · exact ⟨_, _, _, h, fun _ => rfl, nofun⟩

/-! ### The rows -/

/-- The two supported header rows (R71, R72). -/
theorem exec_header_supported {i : Instr} {d : Dialect}
    (hi : i = .hdrT0 p ∧ d = .typeZero ∨ i = .hdrT1 p ∧ d = .typeOne) (s : State) :
    exec i s = .next (headerStep d p s) := by
  rcases hi with ⟨rfl, rfl⟩ | ⟨rfl, rfl⟩ <;> rfl

/-- The six unsupported header rows (R73). -/
theorem exec_header_unsupported {i : Instr}
    (hi : i ∈ [.hdrInvalid2 p, .hdrInvalid3 p, .hdrInvalid4 p, .hdrInvalid5 p, .hdrInvalid6 p, .hdrInvalid7 p])
    (s : State) : exec i s = .next (headerInvalid s) := by
  simp only [List.mem_cons, List.not_mem_nil, or_false] at hi
  rcases hi with rfl | rfl | rfl | rfl | rfl | rfl <;> rfl

/-- A backreference row is the control step of its class (R78). -/
theorem exec_backref {i : Instr}
    (hi : i ∈ [.brefC1 p, .brefC2 p, .brefC3 p, .brefC4 p, .brefC5 p, .brefC6 p, .brefC7T0 p, .brefC7T1 p])
    (s : State) : ∃ c, exec i s = .next (brefStep c p s) := by
  simp only [List.mem_cons, List.not_mem_nil, or_false] at hi
  rcases hi with rfl | rfl | rfl | rfl | rfl | rfl | rfl | rfl <;> exact ⟨_, rfl⟩

/-- The row of class `k`, with the state that reads the next byte (R78, R53). -/
theorem exec_backref_class {i : Instr} {k : Nat} {f : FsmState}
    (h : i = .brefC1 p ∧ k = 1 ∧ f = .ofs ∨ i = .brefC2 p ∧ k = 2 ∧ f = .ofs ∨
      i = .brefC3 p ∧ k = 3 ∧ f = .ofs ∨ i = .brefC4 p ∧ k = 4 ∧ f = .ofs ∨
      i = .brefC5 p ∧ k = 5 ∧ f = .ofs ∨ i = .brefC6 p ∧ k = 6 ∧ f = .ofs ∨
      i = .brefC7T0 p ∧ k = 7 ∧ f = .lext ∨ i = .brefC7T1 p ∧ k = 7 ∧ f = .lext) (s : State) :
    k < 8 ∧ f = (if k = 7 then .lext else .ofs) ∧ exec i s = .next (brefStep (BitVec.ofNat 3 k) p s) := by
  rcases h with ⟨rfl, rfl, rfl⟩ | ⟨rfl, rfl, rfl⟩ | ⟨rfl, rfl, rfl⟩ | ⟨rfl, rfl, rfl⟩ | ⟨rfl, rfl, rfl⟩ |
    ⟨rfl, rfl, rfl⟩ | ⟨rfl, rfl, rfl⟩ | ⟨rfl, rfl, rfl⟩ <;> exact ⟨by decide, rfl, rfl⟩

/-- The control step of class `k` sets the length to `k + 2`, up to saturation, and class 7 is extended. -/
theorem brefStep_ofNat {k : Nat} (hk : k < 8) (p : BitVec 5) (s : State) :
    brefStep (BitVec.ofNat 3 k) p s =
      { s with ip := s.ip + 1, cls := BitVec.ofNat 3 k, prm := p, len := s.cfg.saturate (k + 2),
               st := if k = 7 then .lext else .ofs } := by
  have hc : BitVec.ofNat 3 k = 7#3 ↔ k = 7 := by
    rw [← BitVec.toNat_inj, BitVec.toNat_ofNat, BitVec.toNat_ofNat]; omega
  have hl : baseCopyLength (BitVec.ofNat 3 k) = k + 2 := by
    rw [baseCopyLength, BitVec.toNat_ofNat, Nat.mod_eq_of_lt hk]
  simp [brefStep, hc, hl, State.advance, State.latchControl, State.setLen, State.goto]

/-! ### The latches -/

theorem keepsBuffers_latchHeader (d : Dialect) (p : BitVec 5) (s : State) : KeepsBuffers s (s.latchHeader d p) :=
  ⟨rfl, rfl, rfl, rfl, rfl, rfl, fun _ => rfl⟩

theorem keepsBuffers_latchControl (c : BitVec 3) (p : BitVec 5) (s : State) :
    KeepsBuffers s (s.latchControl c p) :=
  ⟨rfl, rfl, rfl, rfl, rfl, rfl, fun _ => rfl⟩

/-! ### The run of a literal -/

/-- The literal transfer step under what literal setup guarantees (R74, R77). -/
theorem step_literal {v : Byte} (hst : s.st = .lit) (hz : s.litRem ≠ 0#6) (hip : s.ip < s.n)
    (hv : s.inMem.read s.ip = some v) (hfit : s.Fits 1) :
    step s = .next { s with
      ip := s.ip + 1, outMem := s.outMem.write s.olen v, olen := s.olen + 1, litRem := s.litRem - 1#6,
      st := if s.litRem = 1#6 then .ctrl else .lit } := by
  have hlast : s.litRem - 1#6 = 0#6 ↔ s.litRem = 1#6 := sub_eq_zero
  rw [step_of_lit hst, literalStep_of hz (State.inRead_ok_iff.mpr ⟨hip, hv⟩) (State.fits_iff.mp hfit)]
  simp [State.countLiteral, State.grown, State.advance, hlast, hst]

/-- The state after a whole literal: its bytes appended, the cursor past them, at a control boundary. -/
def State.afterLiteral (s : State) (data : List Byte) : State :=
  { s with ip := s.ip + data.length, outMem := s.outMem.writeFrom s.olen data,
           olen := s.olen + data.length, litRem := 0#6, st := .ctrl }

/-- A literal leaves the output before it. -/
theorem State.afterLiteral_read_below {a : Nat} (ha : a < s.olen) (data : List Byte) :
    (s.afterLiteral data).outMem.read a = s.outMem.read a := by
  rw [State.afterLiteral, Memory.read_writeFrom, if_neg (by omega)]

/-- A literal appends its bytes in order. -/
theorem State.afterLiteral_read_data {j : Nat} {data : List Byte} (hj : j < data.length) :
    (s.afterLiteral data).outMem.read (s.olen + j) = data[j]? := by
  rw [State.afterLiteral, Memory.read_writeFrom, if_pos (by omega), Nat.add_sub_cancel_left]

theorem State.Fits.mono {j k : Nat} (h : s.Fits k) (hjk : j ≤ k) : s.Fits j :=
  fun m hm => Nat.le_trans (Nat.add_le_add_left hjk _) (h m hm)

/-- The transfers of a literal that is present and fits, one byte after the other (R77). -/
theorem run_literal {data : List Byte} (hst : s.st = .lit) (hrem : s.litRem.toNat = data.length)
    (hpos : data ≠ []) (hip : s.ip + data.length ≤ s.n)
    (hin : ∀ j, j < data.length → s.inMem.read (s.ip + j) = data[j]?) (hfit : s.Fits data.length) :
    run data.length s = .next (s.afterLiteral data) := by
  induction data generalizing s with
  | nil => exact absurd rfl hpos
  | cons v rest ih =>
    simp only [List.length_cons] at hrem hip hin hfit
    have hz : s.litRem ≠ 0#6 := fun h0 => by simp [h0] at hrem
    have hstep := step_literal hst hz (by omega) (by simpa using hin 0 (by omega)) (hfit.mono (by omega))
    rw [List.length_cons, run_succ_of_step hstep]
    by_cases hrest : rest = []
    · subst hrest
      have hone : s.litRem = 1#6 := BitVec.eq_of_toNat_eq hrem
      simp [State.afterLiteral, Memory.writeFrom, hone]
    · have hone : s.litRem ≠ 1#6 := fun h1 => hrest (by simpa [h1] using hrem)
      rw [if_neg hone, ih rfl ?_ hrest ?_ ?_ ?_]
      · simp [State.afterLiteral, Memory.writeFrom, Nat.add_assoc, Nat.add_comm 1]
      · simp only [litRem_sub_one_toNat hz, hrem, Nat.add_sub_cancel]
      · simp only; omega
      · intro j hj
        simpa [Nat.add_assoc, Nat.add_comm 1] using hin (j + 1) (by omega)
      · exact fun m hm => by have := hfit m hm; simp only; omega

/-! ### The run of a literal segment -/

section

variable {seg : Segment} {d : Dialect}
  (hseg : s.st = .ctrl ∧ s.dialect = d ∧ (∃ data, seg = .lit data) ∨ s.st = .hdr ∧ ∃ data, seg = .hdr d data)

include hseg

/-- The step of the first byte of a literal segment is literal setup, in a state `u` that has latched the byte's
fields (R71, R72, R76). -/
theorem step_literalSegment (hip : s.ip < s.n) (hb : s.inMem.read s.ip = seg.bytes[0]?) :
    ∃ u, step s = .next (litSetup (BitVec.ofNat 5 (seg.data.length - 1)) u) ∧ KeepsBuffers s.advance u ∧
      u.err = s.err ∧ u.dialect = d := by
  have hread : ∀ b, seg.bytes[0]? = some b → s.inRead s.ip = .ok b :=
    fun b h => State.inRead_ok_iff.mpr ⟨hip, hb.trans h⟩
  rcases hseg with ⟨hst, rfl, data, rfl⟩ | ⟨hst, data, rfl⟩
  · refine ⟨_, ?_, keepsBuffers_latchControl 0#3 (BitVec.ofNat 5 (data.length - 1)) s.advance, rfl, rfl⟩
    rw [step_of_byte (by rw [State.context, hst]) (Nat.ne_of_lt hip) (hread _ rfl), exec_control,
      classField_packByte, paramField_packByte, if_pos rfl]
    rfl
  · refine ⟨_, ?_, keepsBuffers_latchHeader d (BitVec.ofNat 5 (data.length - 1)) s.advance, rfl, rfl⟩
    rw [step_of_byte (by rw [State.context, hst]) (Nat.ne_of_lt hip) (hread _ rfl), exec_header,
      classField_packByte, paramField_packByte]
    cases d <;> rfl

/-- A literal segment is its first byte and its data (R54). -/
theorem bytes_literalSegment (hwf : seg.wf d = true) :
    (∃ b, seg.bytes = b :: seg.data) ∧ 1 ≤ seg.data.length ∧ seg.data.length ≤ 32 := by
  rcases hseg with ⟨-, -, data, rfl⟩ | ⟨-, data, rfl⟩
  · exact ⟨⟨_, rfl⟩, Segment.wf_lit.mp hwf⟩
  · exact ⟨⟨_, rfl⟩, (Segment.wf_hdr.mp hwf).2⟩

end

/-- Literal setup and the transfers after it, where the whole literal is present and fits. -/
theorem run_literal_of_litSetup {u : State} {data : List Byte}
    (hstep : step s = .next (litSetup (BitVec.ofNat 5 (data.length - 1)) u))
    (hpos : 1 ≤ data.length) (hle : data.length ≤ 32) (hip : u.ip + data.length ≤ u.n)
    (hin : ∀ j, j < data.length → u.inMem.read (u.ip + j) = data[j]?) (hfit : u.Fits data.length) :
    run (1 + data.length) s = .next (u.afterLiteral data) := by
  have hlen : literalLength (BitVec.ofNat 5 (data.length - 1)) = data.length := literalLength_ofNat hpos hle
  have hrem : (BitVec.ofNat 6 data.length).toNat = data.length := by
    rw [BitVec.toNat_ofNat, Nat.mod_eq_of_lt (by omega)]
  have hbegin := litSetup_of_fits (s := u) (p := BitVec.ofNat 5 (data.length - 1))
    (by rw [hlen]; omega) (by rwa [hlen])
  rw [hlen] at hbegin
  rw [Nat.add_comm, run_succ_of_step hstep, hbegin]
  exact run_literal rfl hrem (List.ne_nil_of_length_pos hpos) hip hin hfit

end

end Machine

end Sys2Proof

section

open Sys2Proof Sys2Proof.Machine

/-- Settles O29: literal setup writes three registers only (`litSetup_writes`). -/
theorem headerRowsFrame : Obligations.HeaderRowsFrame := by
  intro s t p i hi h
  rcases hi with hi | hi
  · obtain ⟨d, hd⟩ : ∃ d : Dialect, i = .hdrT0 p ∧ d = .typeZero ∨ i = .hdrT1 p ∧ d = .typeOne := by
      simpa [exists_or] using hi
    obtain ⟨l, f, e, hw, herr, -⟩ := litSetup_writes p (s.advance.latchHeader d p)
    rw [exec_header_supported hd, headerStep, hw] at h
    cases h
    refine ⟨rfl, rfl, rfl, rfl, rfl, rfl, rfl, rfl, rfl, herr, fun hinv => ?_, fun _ => rfl, fun _ => rfl⟩
    rcases hd with ⟨rfl, -⟩ | ⟨rfl, -⟩ <;> simp at hinv
  · rw [exec_header_unsupported hi] at h
    cases h
    exact ⟨rfl, rfl, rfl, rfl, rfl, rfl, rfl, rfl, rfl, fun hst => absurd rfl hst,
      fun _ => ⟨rfl, rfl, rfl⟩, fun _ => rfl, fun _ => rfl⟩

/-- Settles O30: literal setup writes three registers only (`litSetup_writes`). -/
theorem litRowFrame : Obligations.LitRowFrame := by
  intro s t p h
  obtain ⟨l, f, e, hw, herr, hrem⟩ := litSetup_writes p (s.advance.latchControl 0#3 p)
  rw [exec, execLit, hw] at h
  cases h
  exact ⟨rfl, rfl, rfl, rfl, rfl, rfl, rfl, rfl, rfl, herr, hrem, fun _ => rfl, fun _ => rfl⟩

/-- Settles O31: every row is the control step of its class (`exec_backref`). -/
theorem backrefRowsFrame : Obligations.BackrefRowsFrame := by
  intro s t p i hi h
  obtain ⟨c, hc⟩ := exec_backref hi s
  rw [hc] at h
  cases h
  exact ⟨rfl, rfl, rfl, rfl, rfl, rfl, rfl, rfl, rfl, rfl, fun _ => rfl, fun _ => rfl⟩

/-- Settles O34: each transfer is one append at `olen` and its own count. -/
theorem transferStepsFrame : Obligations.TransferStepsFrame := by
  refine ⟨fun s t h => ?_, fun s t h => ?_⟩
  · obtain ⟨-, v, -, -, rfl⟩ := literalStep_next h
    exact ⟨rfl, rfl, rfl, rfl, rfl, rfl, rfl, rfl, rfl, rfl, rfl, fun _ => rfl,
      fun a ha => Memory.read_write_other s.outMem s.olen a v ha⟩
  · obtain ⟨-, v, -, -, rfl⟩ := copyStep_next h
    exact ⟨rfl, rfl, rfl, rfl, rfl, rfl, rfl, rfl, rfl, rfl, rfl, fun _ => rfl,
      fun a ha => Memory.read_write_other s.outMem s.olen a v ha⟩

/-- Settles O47: the first byte begins the literal (`step_literalSegment`), the transfers append its data one by
one (`run_literal`), and OUT then reads as after one block write. -/
theorem literalSegmentNetEffect : Obligations.LiteralSegmentNetEffect := by
  intro s seg d hseg hwf hip hin hfit
  obtain ⟨⟨b, hbytes⟩, hpos, hle⟩ := bytes_literalSegment hseg hwf
  have hlen : seg.bytes.length = seg.data.length + 1 := by rw [hbytes, List.length_cons]
  obtain ⟨u, hstep, hk, herr, hd⟩ := step_literalSegment hseg (by omega) (hin 0 (by omega))
  have huip : u.ip = s.ip + 1 := hk.ip
  have hun : u.n = s.n := hk.n
  have huolen : u.olen = s.olen := hk.olen
  have hdata : ∀ j, j < seg.data.length → u.inMem.read (u.ip + j) = seg.data[j]? := by
    intro j hj
    have hj1 := hin (j + 1) (by omega)
    rw [hbytes, List.getElem?_cons_succ] at hj1
    rw [hk.inMem, huip, Nat.add_assoc, Nat.add_comm 1]
    exact hj1
  have hfits : u.Fits seg.data.length := by
    rw [State.fits_iff, hk.cfg, huolen]
    exact State.fits_iff.mp hfit
  have hcursor : u.ip + seg.data.length = s.ip + seg.bytes.length := by omega
  refine ⟨u.afterLiteral seg.data, run_literal_of_litSetup hstep hpos hle (by omega) hdata hfits, rfl, hd,
    hcursor, congrArg (· + _) huolen, hun, hk.inMem, herr, hk.cfg, fun a ha => ?_, fun j hj => ?_⟩
  · rw [State.afterLiteral_read_below (huolen ▸ ha), hk.outMem, State.advance_outMem]
  · rw [← huolen, State.afterLiteral_read_data hj]

/-- Settles O18: a supported header row is literal setup after the latches, and each clause is one outcome of
literal setup. -/
theorem headerRowsBeginALiteral : Obligations.HeaderRowsBeginALiteral := by
  intro s p i d hi
  rw [exec_header_supported hi, headerStep]
  exact ⟨fun hin hfit => congrArg _ (litSetup_of_fits hin hfit),
    fun hin => congrArg _ (litSetup_of_truncated hin),
    fun hin hfit => congrArg _ (litSetup_of_not_fits hin hfit)⟩

/-- Settles O19: an unsupported row is the error entry alone, and so is the step that fetches one. -/
theorem invalidHeaderRowsRaise : Obligations.InvalidHeaderRowsRaise := by
  refine ⟨fun s p i hi => exec_header_unsupported hi s, fun s b hb hst hip hv => ?_⟩
  have hr : s.inRead s.ip = .ok b := State.inRead_ok_iff.mpr ⟨hip, hv⟩
  rw [step_of_byte (by rw [State.context, hst]) (Nat.ne_of_lt hip) hr]
  exact exec_header_invalid hb s

/-- Settles O20: LIT is literal setup after the latches, and each clause is one outcome of literal setup. -/
theorem litRowBeginsALiteral : Obligations.LitRowBeginsALiteral := by
  intro s p
  rw [exec, execLit]
  exact ⟨fun hin hfit => congrArg _ (litSetup_of_fits hin hfit),
    fun hin => congrArg _ (litSetup_of_truncated hin),
    fun hin hfit => congrArg _ (litSetup_of_not_fits hin hfit)⟩

/-- Settles O21: the control step of class `k` with the two readings of saturation (`brefStep_ofNat`). -/
theorem backrefRowsSetTheLength : Obligations.BackrefRowsSetTheLength := by
  intro s p i k f h
  obtain ⟨hk, hf, hexec⟩ := exec_backref_class h s
  rw [hexec, brefStep_ofNat hk, ← hf]
  exact ⟨fun hnone => by rw [Config.saturate_of_none hnone],
    fun m hsome => by rw [Config.saturate_of_some hsome]⟩

/-- Settles O26: `step_literal`. -/
theorem literalTransferAppendsTheInputByte : Obligations.LiteralTransferAppendsTheInputByte :=
  fun _ _ hst hz hip hv hfit => step_literal hst hz hip hv hfit

end

/-! SUPPORT. The rows that 41_resolver reads, each as the operation it starts: the final offset as a number
(R87), the length-extension step and its chain (R82, R83), and the outcomes of `validate` with what it writes
(R88 to R90). -/

namespace Sys2Proof

/-! ### The final offset -/

/-- The near form's final offset (R85, R87). -/
theorem finalOffset_rawOffset (p : BitVec 5) (lo : Byte) :
    finalOffset (rawOffset p lo) = p.toNat * 256 + lo.toNat + 1 := by
  rw [finalOffset, rawOffset_toNat]

/-- The far extension's sum is exact in the 17 bits of `ofs` (R86). -/
theorem farOffset_toNat (xh xl : Byte) :
    (0x1FFF#17 + farExtension xh xl).toNat = 0x1FFF + (xh.toNat * 256 + xl.toNat) := by
  have := xh.isLt
  have := xl.isLt
  rw [BitVec.toNat_add, farExtension_toNat, BitVec.toNat_ofNat]
  omega

/-- The far form's final offset (R86, R87). -/
theorem finalOffset_far (xh xl : Byte) :
    finalOffset (0x1FFF#17 + farExtension xh xl) = 0x1FFF + (xh.toNat * 256 + xl.toNat) + 1 := by
  rw [finalOffset, farOffset_toNat]

namespace Machine

section

variable {s : State}

/-! ### The length extension -/

/-- A length-extension row is the length-extension step of some byte (R83). -/
theorem exec_extension {e : Byte} {i : Instr} (hi : i ∈ [.lextT0 e, .lextT1More, .lextT1End e]) (s : State) :
    ∃ b f, exec i s = .next (extendStep b f s) := by
  simp only [List.mem_cons, List.not_mem_nil, or_false] at hi
  rcases hi with rfl | rfl | rfl <;> exact ⟨_, _, rfl⟩

/-- The step of `S_LEXT` where a byte is present (R83). -/
theorem step_extension {e : Byte} (hst : s.st = .lext) (hip : s.ip < s.n) (he : s.inMem.read s.ip = some e) :
    step s = .next (extendStep e (if s.dialect = .typeZero ∨ e ≠ 0xFF#8 then .ofs else .lext) s) := by
  rw [step_of_byte (by rw [State.context, hst]) (Nat.ne_of_lt hip) (State.inRead_ok_iff.mpr ⟨hip, he⟩),
    exec_lengthExt]

/-- Without a saturation point the length-extension step is an addition. -/
theorem extendStep_of_none (h : s.cfg.lenSat = none) (e : Byte) (f : FsmState) :
    extendStep e f s = { s with ip := s.ip + 1, len := s.len + e.toNat, st := f } := by
  rw [extendStep, State.setLen, State.advance_cfg, Config.saturate_of_none h]
  rfl

/-- With a saturation point the sum stops there (decision D12). -/
theorem extendStep_of_some {m : Nat} (h : s.cfg.lenSat = some m) (e : Byte) (f : FsmState) :
    extendStep e f s = { s with ip := s.ip + 1, len := min (s.len + e.toNat) m, st := f } := by
  rw [extendStep, State.setLen, State.advance_cfg, Config.saturate_of_some h]
  rfl

/-- Inside `S_LEXT` the end of the input is a truncation (60_exceptions R117). -/
theorem endOfInput_of_lext (hst : s.st = .lext) : endOfInput s = s.raise .truncatedInput := by
  simp only [endOfInput, hst]

/-! ### Validation -/

theorem validate_of_invalid (h : s.olen < finalOffset s.ofs) : validate s = s.raise .invalidOffset :=
  if_pos h

theorem validate_of_not_fits (h : finalOffset s.ofs ≤ s.olen) (hfit : ¬ s.Fits s.len) :
    validate s = s.raise .outputOverflow := by
  rw [validate, if_neg (Nat.not_lt.mpr h), if_pos (State.not_fits_iff.mp hfit)]

theorem validate_of_fits (h : finalOffset s.ofs ≤ s.olen) (hfit : s.Fits s.len) :
    validate s = s.beginCopy (finalOffset s.ofs) := by
  simp [validate, Nat.not_lt.mpr h, State.fits_iff.mp hfit]

/-- Validation writes four registers: `err` only when it raises, `src` and `cpy_rem` only when it does not. -/
theorem validate_writes (s : State) :
    ∃ a k f e, validate s = { s with src := a, cpyRem := k, st := f, err := e } ∧
      (f ≠ .err → e = s.err) ∧ (f ≠ .copy → a = s.src ∧ k = s.cpyRem) := by
  rcases validate_cases s with ⟨-, h⟩ | ⟨-, -, h⟩ | ⟨-, -, h⟩
  · exact ⟨_, _, _, _, h, fun hf => absurd rfl hf, fun _ => ⟨rfl, rfl⟩⟩
  · exact ⟨_, _, _, _, h, fun hf => absurd rfl hf, fun _ => ⟨rfl, rfl⟩⟩
  · exact ⟨_, _, _, _, h, fun _ => rfl, fun hf => absurd rfl hf⟩

/-- An offset row completes the offset and validates it, or is one of the first two bytes of a far offset
(R84, R86). -/
theorem offsetRow_cases {i : Instr} (hi : (∃ lo, i = .ofsNear lo) ∨ ∃ b, i = .ofsFarT1 b) (s : State) :
    (∃ v, exec i s = .next (validate (s.advance.setOfs v)) ∧ ∀ xh, i ≠ .ofsFarT1 (.extHigh xh)) ∨
    i = .ofsFarT1 .trigger ∨ ∃ xh, i = .ofsFarT1 (.extHigh xh) := by
  rcases hi with ⟨lo, rfl⟩ | ⟨b, rfl⟩
  · exact .inl ⟨_, rfl, nofun⟩
  · cases b with
    | trigger => exact .inr (.inl rfl)
    | extHigh xh => exact .inr (.inr ⟨xh, rfl⟩)
    | extLow xl => exact .inl ⟨_, rfl, nofun⟩

/-- The three outcomes of the byte that completes the raw offset `r`, in the order of the tests (R88 to R90). -/
theorem exec_completesOffset {i : Instr} {v : BitVec 17} {r : Nat} (hv : v.toNat = r)
    (hi : exec i s = .next (validate (s.advance.setOfs v))) :
    (r + 1 ≤ s.olen → s.Fits s.len → exec i s = .next
      { s with ip := s.ip + 1, ofs := BitVec.ofNat 17 r, src := s.olen - (r + 1), cpyRem := s.len, st := .copy }) ∧
    (s.olen < r + 1 → exec i s = .next
      { s with ip := s.ip + 1, ofs := BitVec.ofNat 17 r, err := 3#3, st := .err }) ∧
    (r + 1 ≤ s.olen → ¬ s.Fits s.len → exec i s = .next
      { s with ip := s.ip + 1, ofs := BitVec.ofNat 17 r, err := 4#3, st := .err }) := by
  subst hv
  rw [hi, BitVec.ofNat_toNat, BitVec.setWidth_eq]
  exact ⟨fun hofs hfit => congrArg _ (validate_of_fits hofs hfit),
    fun hofs => congrArg _ (validate_of_invalid hofs),
    fun hofs hfit => congrArg _ (validate_of_not_fits hofs hfit)⟩

end

end Machine

end Sys2Proof

section

open Sys2Proof Sys2Proof.Machine

/-- Settles O10: the two forms as numbers (`finalOffset_rawOffset`, `finalOffset_far`); the near form reaches 8192
only at the far trigger. -/
theorem finalOffsetRange : Obligations.FinalOffsetRange := by
  refine ⟨fun ofs olen => ⟨rfl, Nat.le_add_left 1 _, fun h => ?_⟩, fun p lo => ?_, fun xh xl => ?_⟩
  · exact Nat.sub_lt_of_pos_le (Nat.succ_pos _) h
  · have := p.isLt
    have := lo.isLt
    rw [finalOffset_rawOffset, Bool.eq_false_iff, ne_eq, isFarTrigger_iff_offset]
    exact ⟨rfl, by omega, fun hnear => by simp only [true_and] at hnear; omega⟩
  · have := xh.isLt
    have := xl.isLt
    rw [finalOffset_far]
    exact ⟨rfl, by omega⟩

/-- Settles O32: every row is the length-extension step of some byte (`exec_extension`). -/
theorem lengthExtensionRowsFrame : Obligations.LengthExtensionRowsFrame := by
  intro s t e i hi h
  obtain ⟨b, f, hb⟩ := exec_extension hi s
  rw [hb] at h
  cases h
  exact ⟨rfl, rfl, rfl, rfl, rfl, rfl, rfl, rfl, rfl, rfl, rfl, rfl, fun _ => rfl, fun _ => rfl⟩

/-- Settles O33: two bytes end in validation (`validate_writes`), and the other two of a far offset write one
register each. -/
theorem offsetRowsFrame : Obligations.OffsetRowsFrame := by
  intro s t i hi h
  rcases offsetRow_cases hi s with ⟨v, hv, hhigh⟩ | rfl | ⟨xh, rfl⟩
  · obtain ⟨a, k, f, e, hw, herr, hcopy⟩ := validate_writes (s.advance.setOfs v)
    rw [hv, hw] at h
    cases h
    exact ⟨rfl, rfl, rfl, rfl, rfl, rfl, rfl, rfl, herr, fun _ => rfl, fun ⟨xh, hxh⟩ => absurd hxh (hhigh xh),
      hcopy, fun _ => rfl, fun _ => rfl⟩
  · cases h
    exact ⟨rfl, rfl, rfl, rfl, rfl, rfl, rfl, rfl, fun _ => rfl, fun _ => rfl, nofun, fun _ => ⟨rfl, rfl⟩,
      fun _ => rfl, fun _ => rfl⟩
  · cases h
    exact ⟨rfl, rfl, rfl, rfl, rfl, rfl, rfl, rfl, fun _ => rfl, fun hhigh => absurd rfl (hhigh xh), fun _ => rfl,
      fun _ => ⟨rfl, rfl⟩, fun _ => rfl, fun _ => rfl⟩

/-- Settles O46: by induction on the bytes 0xFF before the one that ends the chain. -/
theorem extensionChainSums : Obligations.ExtensionChainSums := by
  intro s k x hst hd hsat hip hmore hx hend
  induction k generalizing s with
  | zero =>
    rw [run_succ_of_step (step_extension hst (by omega) hx), run_zero, extendStep_of_none hsat,
      if_pos (.inr hend)]
    simp
  | succ k ih =>
    have hstep := step_extension hst (by omega) (hmore 0 (by omega))
    have hcursor : ∀ j, s.ip + 1 + j = s.ip + (j + 1) := by omega
    have hlen : s.len + (0xFF#8).toNat + (255 * k + x.toNat) = s.len + (255 * (k + 1) + x.toNat) := by
      rw [BitVec.toNat_ofNat]
      omega
    rw [run_succ_of_step hstep, extendStep_of_none hsat, if_neg (by simp [hd]), ih]
    · simp only [hcursor, hlen]
    · rfl
    · exact hd
    · exact hsat
    · simp only
      omega
    · intro j hj
      simpa only [hcursor] using hmore (j + 1) (by omega)
    · simpa only [hcursor] using hx

/-- Settles O22: the length-extension step without a saturation point (`extendStep_of_none`). -/
theorem lengthExtensionRowsAdd : Obligations.LengthExtensionRowsAdd := by
  intro s hsat
  refine ⟨fun e => congrArg _ (extendStep_of_none hsat e .ofs), congrArg _ (extendStep_of_none hsat 0xFF#8 .lext),
    fun e => congrArg _ (extendStep_of_none hsat e .ofs), fun hst he => ?_, fun e hst hip hv => ?_⟩
  · rw [step_of_end (by rw [State.context, hst]) he, endOfInput_of_lext hst]
    rfl
  · rw [step_extension hst hip hv, extendStep_of_none hsat]

/-- Settles O23: the length-extension step with a saturation point (`extendStep_of_some`). -/
theorem lengthExtensionRowsSaturate : Obligations.LengthExtensionRowsSaturate :=
  fun _ _ hsat => ⟨fun e => congrArg _ (extendStep_of_some hsat e .ofs),
    congrArg _ (extendStep_of_some hsat 0xFF#8 .lext), fun e => congrArg _ (extendStep_of_some hsat e .ofs)⟩

/-- Settles O24: the near byte completes the offset (`exec_completesOffset`). -/
theorem nearOffsetRowValidates : Obligations.NearOffsetRowValidates := by
  rintro s lo r rfl
  exact exec_completesOffset (rawOffset_toNat s.prm lo) rfl

/-- Settles O25: the trigger and the high byte write one register each, and the low byte completes the offset
(`exec_completesOffset`) with an exact sum (`farOffset_toNat`). -/
theorem farOffsetRowExtendsAndValidates : Obligations.FarOffsetRowExtendsAndValidates := by
  refine ⟨fun s hp => ?_, fun s xh => rfl, ?_⟩
  · have hofs : rawOffset s.prm 0xFF#8 = 0x1FFF#17 := by rw [hp]; decide
    rw [exec, execOfsFarT1, farTrigger, hofs]
    rfl
  · rintro s xl r hofs rfl
    exact exec_completesOffset (farOffset_toNat s.xhi xl) (by rw [← hofs]; rfl)

end

/-! SUPPORT. The copy phase (42_copy R92, R93): a copy step, the output that the whole phase leaves, and its
cyclic reading. -/

namespace Sys2Proof.Machine

/-- `m'` is `m` with `l` bytes appended at `olen`, each the byte that `m'` holds as far above `src`: a read sees
every earlier write, so the bytes may overlap their source (R92). -/
structure Memory.CopyOf (m m' : Memory) (src olen l : Nat) : Prop where
  below : ∀ a, a < olen → m'.read a = m.read a
  back : ∀ j, j < l → m'.read (olen + j) = m'.read (src + j)

section

variable {m m' : Memory} {src olen l : Nat}

theorem Memory.copyOf_zero (m : Memory) (src olen : Nat) : m.CopyOf m src olen 0 :=
  ⟨fun _ _ => rfl, nofun⟩

/-- One append of the source byte before a copy is a copy of one byte more. -/
theorem Memory.CopyOf.of_write {v : Byte} (h : (m.write olen v).CopyOf m' (src + 1) (olen + 1) l)
    (hsrc : src < olen) (hv : m.read src = some v) : m.CopyOf m' src olen (l + 1) := by
  have hbelow : ∀ a, a < olen → m'.read a = m.read a := fun a ha => by
    rw [h.below a (by omega), Memory.read_write_other m olen a v (by omega)]
  refine ⟨hbelow, fun j hj => ?_⟩
  cases j with
  | zero =>
    rw [Nat.add_zero, Nat.add_zero, hbelow src hsrc, hv, h.below olen (Nat.lt_succ_self olen),
      Memory.read_write_same]
  | succ j => simpa only [Nat.add_assoc, Nat.add_comm 1] using h.back j (Nat.lt_of_succ_lt_succ hj)

/-- A copy from distance `d` repeats the last `d` bytes cyclically: going back by `d` ends among them (R93). -/
theorem Memory.CopyOf.cyclic {d : Nat} (h : m.CopyOf m' src olen l) (hd : src + d = olen) (hpos : 1 ≤ d)
    {j : Nat} (hj : j < l) : m'.read (olen + j) = m.read (src + j % d) := by
  induction j using Nat.strong_induction_on with
  | _ j ih =>
    rw [h.back j hj]
    by_cases hjd : j < d
    · rw [h.below _ (by omega), Nat.mod_eq_of_lt hjd]
    · obtain ⟨i, rfl⟩ := Nat.exists_eq_add_of_le (Nat.le_of_not_lt hjd)
      rw [← Nat.add_assoc, hd, ih i (by omega) (by omega), Nat.add_mod_left]

/-- Appending a byte leaves every byte of the longer output written. -/
theorem Memory.written_write (h : ∀ a, a < olen → (m.read a).isSome = true) (v : Byte) :
    ∀ a, a < olen + 1 → ((m.write olen v).read a).isSome = true := by
  intro a ha
  rw [Memory.read_write]
  split
  · rfl
  · exact h a (by omega)

end

section

variable {s : State}

/-- The copy step under what `validate` guarantees (R92, 41_resolver R90). -/
theorem step_copy {v : Byte} (hst : s.st = .copy) (hrem : 1 ≤ s.cpyRem) (hsrc : s.src < s.olen)
    (hv : s.outMem.read s.src = some v) (hfit : s.Fits 1) :
    step s = .next { s with
      outMem := s.outMem.write s.olen v, olen := s.olen + 1, src := s.src + 1, cpyRem := s.cpyRem - 1,
      st := if s.cpyRem - 1 = 0 then .ctrl else .copy } := by
  rw [step_of_copy hst, copyStep_of (Nat.one_le_iff_ne_zero.mp hrem) (State.outRead_ok_iff.mpr ⟨hsrc, hv⟩)
    (State.fits_iff.mp hfit)]
  simp [State.countCopy, State.grown, hst]

/-- The state after a whole copy of `l` bytes that left the output `m`, at a control boundary. -/
def State.afterCopy (s : State) (l : Nat) (m : Memory) : State :=
  { s with outMem := m, olen := s.olen + l, src := s.src + l, cpyRem := 0, st := .ctrl }

/-- The copy phase, one byte after the other (R93). -/
theorem run_copy {l : Nat} (hst : s.st = .copy) (hrem : s.cpyRem = l) (hpos : 1 ≤ l) (hsrc : s.src < s.olen)
    (hfit : s.Fits l) (hw : ∀ a, a < s.olen → (s.outMem.read a).isSome = true) :
    ∃ m, run l s = .next (s.afterCopy l m) ∧ s.outMem.CopyOf m s.src s.olen l := by
  induction l generalizing s with
  | zero => exact absurd hpos (by decide)
  | succ l ih =>
    obtain ⟨v, hv⟩ := Option.isSome_iff_exists.mp (hw s.src hsrc)
    have hstep := step_copy hst (by omega) hsrc hv (hfit.mono (by omega))
    rw [hrem, Nat.add_sub_cancel] at hstep
    rw [run_succ_of_step hstep]
    by_cases hl : l = 0
    · subst hl
      exact ⟨_, rfl, (Memory.copyOf_zero _ _ _).of_write hsrc hv⟩
    · have hfits : s.cfg.exceeds (s.olen + 1 + l) = false := by
        rw [Nat.add_assoc, Nat.add_comm 1]
        exact State.fits_iff.mp hfit
      rw [if_neg hl]
      obtain ⟨m, hrun, hcopy⟩ := ih
        (s := { s with outMem := s.outMem.write s.olen v, olen := s.olen + 1, src := s.src + 1, cpyRem := l,
                       st := .copy })
        rfl rfl (Nat.one_le_iff_ne_zero.mpr hl) (Nat.succ_lt_succ hsrc) (State.fits_iff.mpr hfits)
        (Memory.written_write hw v)
      refine ⟨m, hrun.trans ?_, hcopy.of_write hsrc hv⟩
      simp only [State.afterCopy, Nat.add_assoc, Nat.add_comm 1]

end

end Sys2Proof.Machine

/-! SUPPORT. The run of a backreference from its control byte to the start of its copy (40_classifier R75, R78,
41_resolver R80 to R90): the bytes ahead of the cursor, the length, the offset. -/

namespace Sys2Proof.Machine

/-- The bytes `bs` stand in the block from the cursor on. -/
def State.Ahead (s : State) (bs : List Byte) : Prop :=
  s.ip + bs.length ≤ s.n ∧ ∀ j, j < bs.length → s.inMem.read (s.ip + j) = bs[j]?

section

variable {s : State}

/-- The byte at the cursor, and the bytes ahead after it. -/
theorem State.Ahead.cons {b : Byte} {bs : List Byte} (h : s.Ahead (b :: bs)) :
    (s.ip < s.n ∧ s.inMem.read s.ip = some b) ∧ s.advance.Ahead bs := by
  obtain ⟨hip, hin⟩ := h
  rw [List.length_cons] at hip hin
  refine ⟨⟨by omega, hin 0 (Nat.succ_pos _)⟩, by simp only [State.advance_ip, State.advance_n]; omega,
    fun j hj => ?_⟩
  simpa [Nat.add_assoc, Nat.add_comm 1] using hin (j + 1) (Nat.succ_lt_succ hj)

/-- The step that decodes the byte ahead. -/
theorem State.Ahead.step {c : Context} {b : Byte} {bs : List Byte} (h : s.Ahead (b :: bs))
    (hc : s.context = some c) : step s = exec (decodeByte c b) s := by
  obtain ⟨⟨hip, hb⟩, -⟩ := h.cons
  exact step_of_byte hc (Nat.ne_of_lt hip) (State.inRead_ok_iff.mpr ⟨hip, hb⟩)

/-! ### The length -/

/-- The control byte of a backreference (R75, R78). -/
theorem step_backref {c : BitVec 3} {p : BitVec 5} {bs : List Byte} (hst : s.st = .ctrl)
    (hin : s.Ahead (packByte c p :: bs)) (hc : c ≠ 0#3) : step s = .next (brefStep c p s) := by
  rw [hin.step (by rw [State.context, hst]), exec_control, classField_packByte, paramField_packByte, if_neg hc]

/-- The extension bytes of a whole chain add up, up to saturation (R82, R83, decision D12). -/
theorem run_extension {xs bs : List Byte} (hst : s.st = .lext) (hxs : isChain s.dialect xs = true)
    (hin : s.Ahead (xs ++ bs)) :
    run xs.length s = .next { s with
      ip := s.ip + xs.length, len := s.cfg.saturate (s.len + byteSum xs), st := .ofs } ∧
    ({ s with ip := s.ip + xs.length } : State).Ahead bs := by
  induction xs generalizing s with
  | nil => cases hxs
  | cons x xs ih =>
    obtain ⟨⟨hip, hx⟩, hrest⟩ := hin.cons
    have hstep := step_extension hst hip hx
    rw [List.length_cons, run_succ_of_step hstep]
    rcases isChain_cons.mp hxs with ⟨rfl, hend⟩ | ⟨hd, rfl, hchain⟩
    · rw [if_pos hend]
      exact ⟨rfl, hrest⟩
    · rw [if_neg (by simp [hd])]
      obtain ⟨hrun, hahead⟩ := ih (s := extendStep 0xFF#8 .lext s) rfl hchain hrest
      have hip' : s.ip + 1 + xs.length = s.ip + (xs.length + 1) := by omega
      have hlen : s.cfg.saturate (s.cfg.saturate (s.len + (0xFF#8).toNat) + byteSum xs) =
          s.cfg.saturate (s.len + byteSum (0xFF#8 :: xs)) := by
        rw [Config.saturate_saturate_add, byteSum, Nat.add_assoc]
      refine ⟨?_, ?_⟩
      · rw [hrun, ← hip', ← hlen]
        rfl
      · rw [← hip']
        exact hahead

/-! ### The offset -/

/-- The byte that completes a raw offset of a valid distance, with a length that fits, begins the copy
(R88 to R90). -/
theorem validate_begins {v : BitVec 17} {dist : Nat} (hv : finalOffset v = dist) (hdist : dist ≤ s.olen)
    (hfit : s.Fits s.len) : validate (s.advance.setOfs v) = (s.advance.setOfs v).beginCopy dist := by
  subst hv
  exact validate_of_fits hdist hfit

/-- The offset bytes of a backreference of a valid distance whose length fits (R84 to R90). -/
theorem run_offset {lo : Byte} {far : Option (Byte × Byte)} (hst : s.st = .ofs)
    (hin : s.Ahead (lo :: farBytes far)) (hfar : far.isSome = isFarTrigger s.dialect s.prm lo)
    (hdist : offsetDistance s.prm lo far ≤ s.olen) (hfit : s.Fits s.len) :
    ∃ o x, run ((farBytes far).length + 1) s = .next { s with
      ip := s.ip + ((farBytes far).length + 1), ofs := o, xhi := x,
      src := s.olen - offsetDistance s.prm lo far, cpyRem := s.len, st := .copy } := by
  have hlow := hin.step (c := .offset s.dialect s.prm) (by rw [State.context, hst])
  obtain ⟨-, hrest⟩ := hin.cons
  rw [exec_offset, ← hfar] at hlow
  match far with
  | none =>
    have hcopy := validate_begins (finalOffset_rawOffset s.prm lo) hdist hfit
    exact ⟨_, _, run_succ_of_step (hlow.trans (congrArg _ hcopy))⟩
  | some (xh, xl) =>
    obtain ⟨-, hp, rfl⟩ := isFarTrigger_iff.mp hfar.symm
    obtain ⟨-, hrest'⟩ := hrest.cons
    have hfirst : step s = .next (farTrigger s) := hlow
    have hhigh : step (farTrigger s) = .next (farHigh xh (farTrigger s)) :=
      State.Ahead.step (s := farTrigger s) (c := .farHigh) hrest rfl
    have hlast : step (farHigh xh (farTrigger s)) = .next (farLow xl (farHigh xh (farTrigger s))) :=
      State.Ahead.step (s := farHigh xh (farTrigger s)) (c := .farLow) hrest' rfl
    have hofs : rawOffset s.prm 0xFF#8 = 0x1FFF#17 := by rw [hp]; decide
    have hsum : finalOffset (rawOffset s.prm 0xFF#8 + farExtension xh xl) =
        offsetDistance s.prm 0xFF#8 (some (xh, xl)) := by
      rw [hofs, finalOffset_far, hp]
      rfl
    have hcopy := validate_begins (s := farHigh xh (farTrigger s)) hsum hdist hfit
    refine ⟨rawOffset s.prm 0xFF#8 + farExtension xh xl, xh, ?_⟩
    change run 3 s = _
    rw [run_succ_of_step hfirst, run_succ_of_step hhigh, run_succ_of_step (hlast.trans (congrArg _ hcopy))]
    rfl

/-! ### The segment -/

/-- The control byte and the extension bytes of a backreference: `k` bytes that leave its length, up to
saturation, in `len`, with the offset bytes ahead (R80 to R83). -/
theorem run_backref_length {seg : Segment} {l dist : Nat} (hst : s.st = .ctrl) (hwf : seg.wf s.dialect = true)
    (hl : seg.copyLength = some l) (hdist : seg.distance = some dist) (hin : s.Ahead seg.bytes) :
    ∃ (k : Nat) (c : BitVec 3) (p : BitVec 5) (lo : Byte) (far : Option (Byte × Byte)),
      seg.bytes.length = k + ((farBytes far).length + 1) ∧
      run k s = .next { s with ip := s.ip + k, cls := c, prm := p, len := s.cfg.saturate l, st := .ofs } ∧
      ({ s with ip := s.ip + k } : State).Ahead (lo :: farBytes far) ∧
      far.isSome = isFarTrigger s.dialect p lo ∧ offsetDistance p lo far = dist := by
  cases seg with
  | hdr | lit => cases hl
  | bref c p lo far =>
    obtain ⟨⟨h0, h7⟩, hfar⟩ := Segment.wf_bref.mp hwf
    cases hl
    cases hdist
    refine ⟨1, c, p, lo, far, ?_, ?_, hin.cons.2, hfar, rfl⟩
    · simp only [Segment.bytes, List.length_cons]
      omega
    · rw [run_succ_of_step (step_backref hst hin h0), brefStep, if_neg h7]
      rfl
  | bref7 p xs lo far =>
    obtain ⟨hxs, hfar⟩ := Segment.wf_bref7.mp hwf
    cases hl
    cases hdist
    obtain ⟨hrun, hahead⟩ := run_extension (s := brefStep 7#3 p s) rfl hxs hin.cons.2
    have hip : s.ip + 1 + xs.length = s.ip + (xs.length + 1) := by omega
    have hlen : s.cfg.saturate (s.cfg.saturate (baseCopyLength 7#3) + byteSum xs) =
        s.cfg.saturate (7 + byteSum xs + 2) := by
      rw [Config.saturate_saturate_add, Nat.add_right_comm 7]
      rfl
    refine ⟨xs.length + 1, 7#3, p, lo, far, ?_, ?_, ?_, hfar, rfl⟩
    · simp only [Segment.bytes, List.length_cons, List.length_append]
      omega
    · rw [run_succ_of_step (step_backref hst hin (by decide)), hrun, ← hip, ← hlen]
      rfl
    · rw [← hip]
      exact hahead

/-- A whole backreference up to the start of its copy, where it is valid and fits: no length that fits has
saturated (R80 to R90, decision D12). -/
theorem run_backref_begins {seg : Segment} {l dist : Nat} (hst : s.st = .ctrl) (hlegal : s.cfg.legal = true)
    (hwf : seg.wf s.dialect = true) (hl : seg.copyLength = some l) (hdist : seg.distance = some dist)
    (hin : s.Ahead seg.bytes) (hle : dist ≤ s.olen) (hfit : s.Fits l) :
    ∃ c p o x, run seg.bytes.length s = .next { s with
      ip := s.ip + seg.bytes.length, cls := c, prm := p, len := l, ofs := o, xhi := x,
      src := s.olen - dist, cpyRem := l, st := .copy } := by
  have hsat : s.cfg.saturate l = l :=
    Config.saturate_of_fits hlegal (State.fits_iff.mp (hfit.mono (s.cfg.saturate_le l)))
  obtain ⟨k, c, p, lo, far, hlen, hrun, hahead, hfar, rfl⟩ := run_backref_length hst hwf hl hdist hin
  rw [hsat] at hrun
  obtain ⟨o, x, hoffset⟩ := run_offset
    (s := { s with ip := s.ip + k, cls := c, prm := p, len := l, st := .ofs }) rfl hahead hfar hle hfit
  refine ⟨c, p, o, x, ?_⟩
  rw [hlen, run_add hrun, hoffset]
  simp only [Nat.add_assoc]

end

end Sys2Proof.Machine

section

open Sys2Proof Sys2Proof.Machine

/-- Settles O27: `step_copy`. -/
theorem copyStepAppendsTheSourceByte : Obligations.CopyStepAppendsTheSourceByte :=
  fun _ _ hst hrem hsrc hv hfit => step_copy hst hrem hsrc hv hfit

/-- Settles O45: the copy phase (`run_copy`) appends the byte `d` below each time, and going back by `d` as often
as it takes ends among the last `d` bytes (`Memory.CopyOf.cyclic`). -/
theorem copyRunRepeatsTheLastBytes : Obligations.CopyRunRepeatsTheLastBytes := by
  intro s d l hst hrem hpos hd hle hsrc hfit hw
  obtain ⟨m, hrun, hcopy⟩ := run_copy hst hrem hpos (by omega) hfit hw
  rw [hsrc] at hcopy
  exact ⟨s.afterCopy l m, hrun, rfl, rfl, rfl, hcopy.below, hcopy.back,
    fun j hj => hcopy.cyclic (Nat.sub_add_cancel hle) hd hj⟩

/-- Settles O48: the bytes of the segment begin the copy (`run_backref_begins`), and the copy phase follows
(`run_copy`). -/
theorem backreferenceSegmentNetEffect : Obligations.BackreferenceSegmentNetEffect := by
  intro s seg l d hst hlegal hwf _ hl hd hip hin hw hle hfit
  obtain ⟨hlpos, -⟩ := Segment.copyLength_range hwf hl
  obtain ⟨hdpos, -⟩ := Segment.distance_range hwf hd
  obtain ⟨c, p, o, x, hbegin⟩ := run_backref_begins hst hlegal hwf hl hd ⟨hip, hin⟩ hle hfit
  obtain ⟨m, hrun, hcopy⟩ := run_copy (l := l)
    (s := { s with ip := s.ip + seg.bytes.length, cls := c, prm := p, len := l, ofs := o, xhi := x,
                   src := s.olen - d, cpyRem := l, st := .copy })
    rfl rfl (Nat.le_trans (by decide) hlpos) (Nat.sub_lt_of_pos_le hdpos hle) hfit hw
  exact ⟨_, (run_add hbegin).trans hrun, rfl, rfl, rfl, rfl, rfl, rfl, rfl, rfl, hcopy.below,
    fun j hj => hcopy.cyclic (Nat.sub_add_cancel hle) hdpos hj⟩

end

/-! SUPPORT. The end of a decode (43_decode_loop R100): which steps enter `S_DONE`, and what the end of the input
does in each byte-reading state. -/

namespace Sys2Proof.Machine

section

variable {s t : State}

theorem State.status_eq_done_iff : s.status = .done ↔ s.st = .done := by
  cases h : s.st <;> simp [State.status, h, FsmState.status]

theorem State.status_eq_busy_iff : s.status = .busy ↔ ¬(s.st = .idle ∨ s.st = .done ∨ s.st = .err) := by
  cases h : s.st <;> simp [State.status, h, FsmState.status]

/-- The byte-reading states, each with its context (30_encoding R50). -/
theorem State.context_of_byteReading {c : Context}
    (h : s.st = .hdr ∧ c = .header ∨ s.st = .ctrl ∧ c = .control s.dialect ∨
      s.st = .lext ∧ c = .lengthExt s.dialect ∨ s.st = .ofs ∧ c = .offset s.dialect s.prm ∨
      s.st = .xhi ∧ c = .farHigh ∨ s.st = .xlo ∧ c = .farLow) : s.context = some c := by
  rcases h with ⟨hst, rfl⟩ | ⟨hst, rfl⟩ | ⟨hst, rfl⟩ | ⟨hst, rfl⟩ | ⟨hst, rfl⟩ | ⟨hst, rfl⟩ <;>
    rw [State.context, hst]

/-- At a control boundary the end of the input is the end of the decode. -/
theorem step_of_end_ctrl (hst : s.st = .ctrl) (he : s.ip = s.n) : step s = .next (s.goto .done) := by
  rw [step_of_end (by rw [State.context, hst]) he]
  simp only [endOfInput, hst]

/-- Inside a segment the end of the input is a truncation (60_exceptions R117). -/
theorem step_of_end_inside (hst : s.st = .hdr ∨ s.st = .lext ∨ s.st = .ofs ∨ s.st = .xhi ∨ s.st = .xlo)
    (he : s.ip = s.n) : step s = .next (s.raise .truncatedInput) := by
  rcases hst with hst | hst | hst | hst | hst <;>
    simp [step_of_end (s := s) (by rw [State.context, hst]) he, endOfInput, hst]

theorem endOfInput_st_eq_done_iff (hst : s.st ≠ .done) : (endOfInput s).st = .done ↔ s.st = .ctrl := by
  cases h : s.st <;> simp_all [endOfInput]

/-- Literal setup enters `S_LIT` or raises. -/
theorem litSetup_st (p : BitVec 5) (s : State) : (litSetup p s).st = .lit ∨ (litSetup p s).st = .err := by
  rcases litSetup_cases p s with ⟨-, h⟩ | ⟨-, -, h⟩ | ⟨-, -, h⟩ <;> simp [h]

/-- `validate` enters `S_COPY` or raises. -/
theorem validate_st (s : State) : (validate s).st = .copy ∨ (validate s).st = .err := by
  rcases validate_cases s with ⟨-, h⟩ | ⟨-, -, h⟩ | ⟨-, -, h⟩ <;> simp [h]

/-- After a byte the decode goes on or has failed: no byte ends it. -/
theorem ByteStep.busy_or_err (h : ByteStep s t) : t.status = .busy ∨ t.st = .err := by
  cases h with
  | header hst d p => exact (litSetup_st p _).imp_left (congrArg FsmState.status)
  | literal hst p => exact (litSetup_st p _).imp_left (congrArg FsmState.status)
  | near hst lo => exact (validate_st _).imp_left (congrArg FsmState.status)
  | extLow hst xl => exact (validate_st _).imp_left (congrArg FsmState.status)
  | invalid hst => exact .inr rfl
  | backref hst c p hc => by_cases h7 : c = 7#3 <;> simp [State.status, brefStep, h7, FsmState.status]
  | extend hst e f hf => rcases hf with rfl | rfl <;> exact .inl rfl
  | trigger | extHigh => exact .inl rfl

/-- A literal transfer stays in `S_LIT` or comes to a control boundary. -/
theorem literalStep_st (hst : s.st = .lit) (h : literalStep s = .next t) : t.st = .lit ∨ t.st = .ctrl := by
  obtain ⟨-, v, -, -, rfl⟩ := literalStep_next h
  by_cases h0 : s.litRem - 1#6 = 0#6 <;> simp [h0, hst]

/-- A copy step stays in `S_COPY` or comes to a control boundary. -/
theorem copyStep_st (hst : s.st = .copy) (h : copyStep s = .next t) : t.st = .copy ∨ t.st = .ctrl := by
  obtain ⟨-, v, -, -, rfl⟩ := copyStep_next h
  by_cases h0 : s.cpyRem - 1 = 0 <;> simp [h0, hst]

end

/-! ### The host's view -/

theorem State.start_eq_none_iff {s : State} {blk : List Byte} :
    s.start blk = none ↔ s.status = .busy ∨ s.cfg.inMax < blk.length := by
  rw [← Nat.not_le, or_iff_not_and_not, not_not, State.start, State.canStart]
  simp

/-- A Start that exists is one for every engine of the same parameters that is not busy (43_decode_loop R107). -/
theorem State.start_of_start {s s' t : State} {blk : List Byte} (h : s.start blk = some t)
    (hst : s'.status ≠ .busy) (hcfg : s'.cfg = s.cfg) : s'.start blk = some (s'.load blk) := by
  have hcan : ¬(s.status = .busy ∨ s.cfg.inMax < blk.length) := fun hno => by
    rw [State.start_eq_none_iff.mpr hno] at h
    cases h
  obtain ⟨t', ht'⟩ : ∃ t', s'.start blk = some t' := Option.ne_none_iff_exists'.mp fun hno =>
    (State.start_eq_none_iff.mp hno).elim hst fun hlen => hcan (.inr (hcfg ▸ hlen))
  rw [ht', State.start_eq_load ht']

/-- A sequence read gives exactly the bytes at its indices. -/
theorem Memory.readFrom_eq_some_iff {m : Memory} {a k : Nat} {l : List Byte} :
    m.readFrom a k = some l ↔ l.length = k ∧ ∀ j, j < k → m.read (a + j) = l[j]? := by
  refine ⟨Memory.readFrom_spec, fun ⟨hlen, hread⟩ => ?_⟩
  have hwritten : ∀ j, j < k → (m.read (a + j)).isSome = true := fun j hj => by
    rw [hread j hj, List.getElem?_eq_getElem (hlen ▸ hj)]
    rfl
  obtain ⟨l', hl'⟩ := Option.isSome_iff_exists.mp (Memory.readFrom_isSome m a k hwritten)
  obtain ⟨hlen', hread'⟩ := Memory.readFrom_spec hl'
  have heq : l' = l := List.ext_getElem? fun j => by
    by_cases hj : j < k
    · rw [← hread' j hj, hread j hj]
    · rw [List.getElem?_eq_none (by omega), List.getElem?_eq_none (by omega)]
  rw [hl', heq]

theorem State.outcome_of_err {s : State} {k : ErrKind} (hst : s.st = .err) (hk : ErrKind.ofCode s.err = some k) :
    s.outcome = some (.error k) := by
  simp [State.outcome, hst, hk]

/-- In `S_DONE` the outcome is the output (43_decode_loop R110). -/
theorem State.outcome_of_done {s : State} {l : List Byte} (hst : s.st = .done)
    (hl : s.outMem.readFrom 0 s.olen = some l) : s.outcome = some (.ok l) := by
  simp [State.outcome, hst, hl]

theorem State.outcome_eq_none {s : State} (hdone : s.st ≠ .done) (herr : s.st ≠ .err) : s.outcome = none := by
  cases h : s.st <;> simp_all [State.outcome]

theorem ErrKind.code_of_ofCode {c : BitVec 3} {k : ErrKind} (h : ErrKind.ofCode c = some k) : c = k.code := by
  cases k <;> revert c <;> decide

end Sys2Proof.Machine

section

open Sys2Proof Sys2Proof.Machine

/-- Settles O11: the byte decodes in the state's own context (`State.context_of_byteReading`). -/
theorem stepRunsTheDecodedInstruction : Obligations.StepRunsTheDecodedInstruction := by
  intro s c b i rest hc hip hb hdec
  cases hdec
  exact step_of_byte (State.context_of_byteReading hc) (Nat.ne_of_lt hip) (State.inRead_ok_iff.mpr ⟨hip, hb⟩)

/-- Settles O12: `step_of_rest`. -/
theorem idleDoneAndErrorStatesStay : Obligations.IdleDoneAndErrorStatesStay :=
  fun _ hst => step_of_rest hst

/-- Settles O53: Start is the load of the block, which reads back below its length. -/
theorem startLoadsTheBlock : Obligations.StartLoadsTheBlock := by
  refine fun s blk => ⟨State.start_eq_none_iff, fun t ht => ?_⟩
  obtain rfl := State.start_eq_load ht
  refine ⟨rfl, fun a ha => Memory.read_writeFrom_zero s.inMem blk ha, fun a ha => ?_⟩
  rw [State.load_inMem, Memory.read_writeFrom, if_neg (by omega)]

/-- Settles O56: under the invariant every byte below `olen` has been written, and `err` names a kind in
`S_ERR`. -/
theorem hostObservesTheOutcome : Obligations.HostObservesTheOutcome := by
  intro s hi
  refine ⟨fun hst => ?_, fun hst => ?_, fun hst => ?_, State.outcome_eq_none⟩
  · simp [State.readOutLen, State.readOut, State.status_eq_done_iff, hst]
  · have hwritten : ∀ j, j < s.olen → (s.outMem.read (0 + j)).isSome = true := by simpa using hi.outWritten
    obtain ⟨l, hl⟩ := Option.isSome_iff_exists.mp (Memory.readFrom_isSome s.outMem 0 s.olen hwritten)
    obtain ⟨hlen, hread⟩ := Memory.readFrom_eq_some_iff.mp hl
    have hout : ∀ a, a < s.olen → s.readOut a = s.outMem.read a := fun a ha =>
      if_pos ⟨State.status_eq_done_iff.mpr hst, ha⟩
    refine ⟨if_pos (State.status_eq_done_iff.mpr hst), l, State.outcome_of_done hst hl, hlen, fun a ha => ?_⟩
    exact ⟨by simpa [hout a ha] using hread a ha, hout a ha⟩
  · obtain ⟨k, hk⟩ := Option.isSome_iff_exists.mp (hi.errorKind hst)
    exact ⟨k, State.outcome_of_err hst hk, ErrKind.code_of_ofCode hk⟩

/-- Settles O13: no byte and no transfer enters `S_DONE`, and the end of the input does so at a control boundary
only. -/
theorem doneExactlyAtControlBoundary : Obligations.DoneExactlyAtControlBoundary := by
  refine ⟨fun s t hdone h => ?_, fun s hst he => step_of_end_ctrl hst he,
    fun s hst he => step_of_end_inside hst he⟩
  rcases step_cases h with ⟨hst, rfl⟩ | ⟨hst, h⟩ | ⟨hst, h⟩ | ⟨c, -, he, rfl⟩ | ⟨c, b, hc, he, -, h⟩
  · rcases hst with hst | hst | hst <;> simp_all
  · rcases literalStep_st hst h with ht | ht <;> simp [ht, hst]
  · rcases copyStep_st hst h with ht | ht <;> simp [ht, hst]
  · simp [endOfInput_st_eq_done_iff hdone, he]
  · have ht : t.st ≠ .done := by
      rcases (ByteStep.of_exec hc h).busy_or_err with ht | ht <;> simp_all [State.status_eq_busy_iff]
    simp [ht, he]

end

/-! SUPPORT. The output bound of each kind of segment (43_decode_loop R105). -/

namespace Sys2Proof.Machine

section

variable {d : Dialect} {seg : Segment}

/-- An extension byte stands for at most 255 output bytes. -/
theorem byteSum_le (xs : List Byte) : byteSum xs ≤ 255 * xs.length := by
  induction xs with
  | nil => exact le_rfl
  | cons x xs ih =>
    have hlt := x.isLt
    rw [byteSum, List.length_cons]
    omega

/-- A literal segment is its first byte and its data (R54). -/
theorem Segment.length_bytes_literal (hl : seg.copyLength = none) : seg.bytes.length = seg.data.length + 1 := by
  cases seg with
  | hdr | lit => rfl
  | bref | bref7 => cases hl

/-- A short backreference copies at most 8 bytes and has at least two (R58, R60). -/
theorem Segment.bref_bounds {c : BitVec 3} {p : BitVec 5} {lo : Byte} {far : Option (Byte × Byte)}
    (h : (Segment.bref c p lo far).wf d = true) :
    c.toNat + 2 ≤ 8 ∧ 2 ≤ (Segment.bref c p lo far).bytes.length := by
  obtain ⟨⟨-, h7⟩, -⟩ := Segment.wf_bref.mp h
  have hlt := c.isLt
  have hne : c.toNat ≠ 7 := fun h => h7 (BitVec.eq_of_toNat_eq h)
  refine ⟨by omega, ?_⟩
  simp only [Segment.bytes, List.length_cons]
  omega

/-- A class-7 backreference has a byte each for its class, its extension and its offset, or more (R56 to R60). -/
theorem Segment.length_bytes_bref7 (p : BitVec 5) (xs : List Byte) (lo : Byte) (far : Option (Byte × Byte)) :
    (Segment.bref7 p xs lo far).bytes.length = xs.length + 2 + (farBytes far).length := by
  simp only [Segment.bytes, List.length_cons, List.length_append]
  omega

/-- A segment of `k` bytes appends at most `255 · k` bytes. -/
theorem Segment.copyLength_le {l : Nat} (h : seg.wf d = true) (hl : seg.copyLength = some l) :
    l ≤ 255 * seg.bytes.length := by
  cases seg with
  | hdr | lit => cases hl
  | bref c p lo far =>
    cases hl
    obtain ⟨h8, h2⟩ := Segment.bref_bounds h
    omega
  | bref7 p xs lo far =>
    cases hl
    have hsum := byteSum_le xs
    rw [Segment.length_bytes_bref7]
    omega

end

end Sys2Proof.Machine

section

open Sys2Proof Sys2Proof.Machine

/-- Settles O50: the bounds of the segments, one kind after the other; a reachable state has at most 255 bytes of
output for each byte read (`Inv.outputBound`). -/
theorem outputIsBoundedByTheInput : Obligations.OutputIsBoundedByTheInput := by
  refine ⟨fun d seg l h hl => ?_, fun d seg _ hl => Segment.length_bytes_literal hl,
    fun d c p lo far l h hl => ?_, fun d p xs lo far l h hl => ?_, fun s hr _ => ?_⟩
  · rcases hl with hl | ⟨hl, rfl⟩
    · exact Segment.copyLength_le h hl
    · rw [Segment.length_bytes_literal hl]
      omega
  · cases hl
    exact Segment.bref_bounds h
  · obtain ⟨hxs, hfar⟩ := Segment.wf_bref7.mp h
    rw [Segment.length_bytes_bref7]
    refine ⟨fun hd => ⟨(Segment.copyLength_range h hl).2 hd, ?_⟩, fun _ => ⟨?_, Nat.le_add_right _ _⟩⟩
    · subst hd
      obtain ⟨x, rfl⟩ := eq_singleton_of_isChain_typeZero hxs
      have hnear : isFarTrigger .typeZero p lo = false := rfl
      obtain rfl : far = none := by simpa [hnear] using hfar
      rfl
    · cases hl
      have hsum := byteSum_le xs
      omega
  · have hbound := hr.inv.outputBound
    have hcursor := hr.inv.cursor
    omega

end

/-! SUPPORT. Every decode ends (43_decode_loop R104): each step but the last reads a byte or copies one, and both
counts are bounded by the length of the block. -/

namespace Sys2Proof.Machine

/-- What holds and is kept by every step holds after a run. -/
theorem run_keeps {P : State → Prop} {s t : State} {k : Nat} (hstep : ∀ u v, P u → step u = .next v → P v)
    (hs : P s) (hr : run k s = .next t) : P t := by
  induction k generalizing s with
  | zero => cases hr; exact hs
  | succ k ih =>
    rw [run] at hr
    split at hr
    · next u hu => exact ih (hstep s u hs hu) hr
    · cases hr
    · cases hr

theorem State.isTerminal_iff {s : State} : s.isTerminal = true ↔ s.st = .done ∨ s.st = .err := by
  simp [State.isTerminal]

/-- The step from `u` to `v` consumes an input byte, or is a copy step that appends an output byte (R104). -/
def Progress (u v : State) : Prop := v.ip = u.ip + 1 ∨ u.st = .copy ∧ v.olen = u.olen + 1

section

variable {s t u : State} {k : Nat}

/-- A step of a running decode ends it, or makes progress and the decode runs on. -/
theorem step_ends_or_progresses (hb : s.status = .busy) (h : step s = .next t) :
    t.isTerminal = true ∨ t.status = .busy ∧ Progress s t := by
  have hbusy := State.status_eq_busy_iff.mp hb
  rcases step_cases h with ⟨hst, -⟩ | ⟨hst, h⟩ | ⟨hst, h⟩ | ⟨c, hc, -, rfl⟩ | ⟨c, b, hc, -, -, h⟩
  · exact absurd hst hbusy
  · refine .inr ⟨by rcases literalStep_st hst h with ht | ht <;> simp [State.status_eq_busy_iff, ht], .inl ?_⟩
    obtain ⟨-, v, -, -, rfl⟩ := literalStep_next h
    rfl
  · refine .inr ⟨by rcases copyStep_st hst h with ht | ht <;> simp [State.status_eq_busy_iff, ht], .inr ⟨hst, ?_⟩⟩
    obtain ⟨-, v, -, -, rfl⟩ := copyStep_next h
    rfl
  · left
    cases hst : s.st <;> simp_all [State.context, endOfInput, State.isTerminal]
  · have hbyte := ByteStep.of_exec hc h
    exact hbyte.busy_or_err.symm.imp (fun ht => State.isTerminal_iff.mpr (.inr ht))
      fun ht => ⟨ht, .inl hbyte.keepsBuffers.ip⟩

/-- No step takes back a byte of input or output, and none changes the block. -/
theorem step_counts (h : step s = .next t) : s.ip ≤ t.ip ∧ s.olen ≤ t.olen ∧ t.n = s.n := by
  obtain ⟨-, hn, -, hip⟩ := stepMovesTheCursorForwardByAtMostOne s t h
  have holen := outputIsAppendOnly s t h
  exact ⟨by omega, by rcases holen with ⟨ho, -⟩ | ⟨-, ho, -⟩ <;> omega, hn⟩

theorem Progress.lt (hp : Progress s t) (h : step s = .next t) : s.ip + s.olen < t.ip + t.olen := by
  obtain ⟨hip, holen, -⟩ := step_counts h
  rcases hp with hp | ⟨-, hp⟩ <;> omega

/-- `k` steps from `s` end the decode in `t`, and each of them but the last makes progress. -/
structure DecodeRun (k : Nat) (s t : State) : Prop where
  run : run k s = .next t
  ends : t.isTerminal = true
  count : s.ip + s.olen + k ≤ t.ip + t.olen + 1
  progress : ∀ j u v, j + 1 < k → Machine.run j s = .next u → step u = .next v → Progress u v

/-- The last step. -/
theorem DecodeRun.last (h : step s = .next t) (ht : t.isTerminal = true) : DecodeRun 1 s t where
  run := run_succ_of_step h
  ends := ht
  count := by
    obtain ⟨hip, holen, -⟩ := step_counts h
    omega
  progress := fun j _ _ hj => absurd hj (by omega)

/-- A step of progress before a run. -/
theorem DecodeRun.cons (h : step s = .next t) (hp : Progress s t) (hr : DecodeRun k t u) :
    DecodeRun (k + 1) s u where
  run := (run_succ_of_step h).trans hr.run
  ends := hr.ends
  count := by
    have hlt := hp.lt h
    have hcount := hr.count
    omega
  progress := by
    intro j v w hj hv hw
    cases j with
    | zero =>
      cases hv
      cases h.symm.trans hw
      exact hp
    | succ j =>
      rw [run_succ_of_step h] at hv
      exact hr.progress j v w (by omega) hv hw

/-- A running decode ends: progress raises `ip + olen`, which the invariant bounds by `256 · N`. -/
theorem Inv.exists_decodeRun (hi : Inv s) (hb : s.status = .busy) : ∃ k t, DecodeRun k s t := by
  induction hm : 256 * s.n - (s.ip + s.olen) using Nat.strong_induction_on generalizing s with
  | _ m ih =>
    obtain ⟨t, h⟩ := noStepStopsUnderTheInvariant s hi
    rcases step_ends_or_progresses hb h with ht | ⟨ht, hp⟩
    · exact ⟨1, t, .last h ht⟩
    · have hit := everyStepKeepsTheInvariant s t hi h
      have hlt := hp.lt h
      have hn := (step_counts h).2.2
      have hcursor := hit.cursor
      have hbound := hit.outputBound
      obtain ⟨k, u, hr⟩ := ih _ (by omega) hit ht rfl
      exact ⟨k + 1, u, hr.cons h hp⟩

/-- Two machines at the same point of a decode end it together. -/
theorem DecodeRun.transfer {s' : State} (hr : DecodeRun k s t) (h : SameDecode s s') (h' : SameDecode s' s) :
    ∃ t', DecodeRun k s' t' ∧ SameDecode t t' := by
  obtain ⟨t', hrun, ht⟩ := h.run hr.run
  refine ⟨t', ⟨hrun, ht.isTerminal ▸ hr.ends, ?_, fun j u' v' hj hu' hv' => ?_⟩, ht⟩
  · rw [← h.ip, ← h.olen, ← ht.ip, ← ht.olen]
    exact hr.count
  · obtain ⟨u, hu, huu⟩ := h'.run hu'
    obtain ⟨v, hv, hvv⟩ := huu.step hv'
    have hp := hr.progress j u v hj hu hv
    rwa [Progress, ← huu.ip, ← huu.st, ← huu.olen, ← hvv.ip, ← hvv.olen] at hp

end

end Sys2Proof.Machine

section

open Sys2Proof Sys2Proof.Machine

/-- Settles O49: Start after reset meets the invariant, under which a decode ends (`Inv.exists_decodeRun`); a Start
in any other state is at the same point of the same decode (`sameDecode_load`). -/
theorem everyDecodeTerminates : Obligations.EveryDecodeTerminates := by
  intro s s1 blk hl hs
  obtain rfl := State.start_eq_load hs
  have hstart := State.start_of_start (s' := State.resetWith s.cfg) hs nofun rfl
  have hi : Inv ((State.resetWith s.cfg).load blk) := (invariantHoldsAfterReset.1 s.cfg hl).start hstart
  obtain ⟨k, t, hr⟩ := hi.exists_decodeRun rfl
  obtain ⟨hit, hn⟩ : Inv t ∧ t.n = blk.length :=
    run_keeps (P := fun u => Inv u ∧ u.n = blk.length) (fun u v hu h =>
      ⟨everyStepKeepsTheInvariant u v hu.1 h, (step_counts h).2.2.trans hu.2⟩) ⟨hi, rfl⟩ hr.run
  obtain ⟨t', hr', ht⟩ := hr.transfer (sameDecode_load (s := State.resetWith s.cfg) (s' := s) hl hl rfl blk)
    (sameDecode_load (s := s) (s' := State.resetWith s.cfg) hl hl rfl blk)
  have hcursor := hit.cursor
  have hbound := hit.outputBound
  have hcount : k ≤ t.ip + t.olen + 1 := Nat.le_trans (Nat.le_add_left k _) hr.count
  have holen := ht.olen
  exact ⟨k, t', hr'.run, State.isTerminal_iff.mp hr'.ends, by omega, by omega, hr'.progress⟩

end

/-! SUPPORT. The engine against the reference function (43_decode_loop R102, R103): what a state between two
segments has still to read and has already written, and one lemma per part of the function: the run of the engine
for that part gives what it answers. -/

namespace Sys2Proof.Machine

/-! ### Runs to an answer -/

/-- Some number of steps from `s` leads to a state with `P`. -/
def Leads (s : State) (P : State → Prop) : Prop := ∃ k t, run k s = .next t ∧ P t

/-- The decode has ended with this outcome. -/
def EndsAs (r : Except ErrKind (List Byte)) (t : State) : Prop := t.isTerminal = true ∧ t.outcome = some r

/-- The run from `s` gives what a part of the reference function answers: it ends in the error, or leads to a
state that has the value. -/
def Yields {α : Type} (s : State) (x : Except ErrKind α) (P : α → State → Prop) : Prop :=
  match x with
  | .error e => Leads s (EndsAs (.error e))
  | .ok a => Leads s (P a)

section

variable {s t : State} {k : Nat} {P : State → Prop}

theorem Leads.now (h : P s) : Leads s P := ⟨0, s, rfl, h⟩

theorem Leads.of_run (hr : run k s = .next t) (h : Leads t P) : Leads s P := by
  obtain ⟨j, u, hu, hp⟩ := h
  exact ⟨k + j, u, (run_add hr).trans hu, hp⟩

theorem Leads.of_step (h : step s = .next t) (ht : Leads t P) : Leads s P :=
  ht.of_run (run_succ_of_step (k := 0) h)

theorem Yields.of_run {α : Type} {x : Except ErrKind α} {P : α → State → Prop} (hr : run k s = .next t)
    (h : Yields t x P) : Yields s x P := by
  cases x with
  | error e => exact Leads.of_run hr h
  | ok a => exact Leads.of_run hr h

theorem Yields.of_step {α : Type} {x : Except ErrKind α} {P : α → State → Prop} (h : step s = .next t)
    (ht : Yields t x P) : Yields s x P :=
  ht.of_run (run_succ_of_step (k := 0) h)

/-- Error entry ends the decode in its kind (60_exceptions R120). -/
theorem leads_raise (s : State) (e : ErrKind) : Leads (s.raise e) (EndsAs (.error e)) :=
  .now ⟨rfl, State.outcome_of_err rfl (ErrKind.ofCode_code e)⟩

/-- Inside a segment the end of the input ends the decode in `TruncatedInput`. -/
theorem leads_truncated (hst : s.st = .hdr ∨ s.st = .lext ∨ s.st = .ofs ∨ s.st = .xhi ∨ s.st = .xlo)
    (he : s.ip = s.n) : Leads s (EndsAs (.error .truncatedInput)) :=
  .of_step (step_of_end_inside hst he) (leads_raise s _)

end

/-! ### The bytes left and the output -/

/-- An engine with parameters `c` has `rest` still to read and has written `out`. -/
structure State.At (c : Config) (rest out : List Byte) (s : State) : Prop where
  cfg : s.cfg = c
  input : ∀ j, j < rest.length → s.inMem.read (s.ip + j) = rest[j]?
  ends : s.ip + rest.length = s.n
  length : out.length = s.olen
  output : ∀ a, a < s.olen → s.outMem.read a = out[a]?

/-- It is at a control-byte boundary of a block in dialect `d`. -/
structure State.AtControl (c : Config) (d : Dialect) (rest out : List Byte) (s : State) : Prop
    extends s.At c rest out where
  st : s.st = .ctrl
  dialect : s.dialect = d

/-- It is inside a backreference with parameter field `p`, whose length is `l` bytes so far, up to saturation. -/
structure State.InBackref (c : Config) (d : Dialect) (p : BitVec 5) (l : Nat) (rest out : List Byte)
    (s : State) : Prop extends s.At c rest out where
  dialect : s.dialect = d
  prm : s.prm = p
  len : s.len = c.saturate l
  pos : 1 ≤ l

section

variable {c : Config} {d : Dialect} {p : BitVec 5} {l dist : Nat} {rest out : List Byte} {s t : State}

theorem State.At.ahead (h : s.At c rest out) : s.Ahead rest := ⟨h.ends.le, h.input⟩

/-- The byte at the cursor is read. -/
theorem State.At.advance {b : Byte} (h : s.At c (b :: rest) out) : s.advance.At c rest out where
  cfg := h.cfg
  input := h.ahead.cons.2.2
  ends := by
    have hends := h.ends
    rw [List.length_cons] at hends
    simp only [State.advance_ip, State.advance_n]
    omega
  length := h.length
  output := h.output

theorem State.At.keepsBuffers (h : s.At c rest out) (hk : KeepsBuffers s t) : t.At c rest out where
  cfg := hk.cfg.trans h.cfg
  input := by rw [hk.inMem, hk.ip]; exact h.input
  ends := by rw [hk.ip, hk.n]; exact h.ends
  length := h.length.trans hk.olen.symm
  output := by rw [hk.olen, hk.outMem]; exact h.output

/-- The step of the byte at the cursor, in the state's context. -/
theorem State.At.step_byte {b : Byte} {ctx : Context} (h : s.At c (b :: rest) out) (hc : s.context = some ctx) :
    step s = exec (decodeByte ctx b) s :=
  h.ahead.step hc

/-- The engine's capacity test is the reference function's. -/
theorem State.At.exceeds (h : s.At c rest out) (k : Nat) :
    s.cfg.exceeds (s.olen + k) = capacityExceeded c.outMax (out.length + k) := by
  rw [h.cfg, h.length, Config.exceeds]

/-- A byte of the output. -/
theorem State.At.output_byte {a : Nat} (h : s.At c rest out) (ha : a < s.olen) :
    ∃ v, out[a]? = some v ∧ s.outMem.read a = some v :=
  ⟨out[a]'(h.length ▸ ha), List.getElem?_eq_getElem _, (h.output a ha).trans (List.getElem?_eq_getElem _)⟩

/-- The end of the input at a control boundary ends the decode in the output (R100). -/
theorem State.AtControl.leads_done (h : s.AtControl c d [] out) : Leads s (EndsAs (.ok out)) := by
  refine .of_step (step_of_end_ctrl h.st h.ends) (.now ⟨rfl, State.outcome_of_done rfl ?_⟩)
  exact Memory.readFrom_eq_some_iff.mpr ⟨h.length, by simpa using h.output⟩

/-! ### Literals -/

/-- A whole literal moves its bytes from the input to the output. -/
theorem State.At.afterLiteral {data : List Byte} (h : s.At c (data ++ rest) out) :
    (s.afterLiteral data).At c rest (out ++ data) where
  cfg := h.cfg
  input := by
    intro j hj
    have hread := h.input (data.length + j) (by rw [List.length_append]; omega)
    rw [List.getElem?_append_right (Nat.le_add_right _ _), Nat.add_sub_cancel_left, ← Nat.add_assoc] at hread
    exact hread
  ends := by
    have hends := h.ends
    rw [List.length_append] at hends
    simp only [State.afterLiteral]
    omega
  length := by rw [List.length_append, h.length]; rfl
  output := by
    intro a ha
    by_cases hold : a < s.olen
    · rw [State.afterLiteral_read_below hold, h.output a hold, List.getElem?_append_left (h.length ▸ hold)]
    · obtain ⟨j, rfl⟩ := Nat.exists_eq_add_of_le (Nat.le_of_not_lt hold)
      rw [State.afterLiteral_read_data (Nat.lt_of_add_lt_add_left ha), ← h.length,
        List.getElem?_append_right (Nat.le_add_right _ _), Nat.add_sub_cancel_left]

/-- Literal setup and its transfers are `literal(L)` (R74, R77). -/
theorem State.At.yields_literal (h : s.At c rest out) (hd : s.dialect = d) (p : BitVec 5) :
    Yields (litSetup p s) (refLiteral c.outMax (literalLength p) rest out)
      fun x => State.AtControl c d x.1 x.2 := by
  have hleft : s.n - s.ip = rest.length := by have := h.ends; omega
  have hcap := h.exceeds (literalLength p)
  rcases litSetup_cases p s with ⟨hin, hs⟩ | ⟨hin, hfit, hs⟩ | ⟨hin, hfit, hs⟩ <;> rw [hleft] at hin <;> rw [hs]
  · rw [refLiteral, if_pos hin]
    exact leads_raise s _
  · rw [refLiteral, if_neg (Nat.not_lt.mpr hin), ← hcap, if_pos hfit]
    exact leads_raise s _
  · rw [refLiteral, if_neg (Nat.not_lt.mpr hin), ← hcap, if_neg (by simp [hfit])]
    have hlen : (rest.take (literalLength p)).length = literalLength p := List.length_take_of_le hin
    have hat : s.At c (rest.take (literalLength p) ++ rest.drop (literalLength p)) out := by
      rwa [List.take_append_drop]
    have hrun := run_literal (s := s.beginLiteral (literalLength p)) (data := rest.take (literalLength p)) rfl
      ((literalLength_in_litRem p).trans hlen.symm)
      (List.ne_nil_of_length_pos (by rw [hlen]; exact Nat.succ_pos _))
      (by rw [hlen]; have := h.ends; simp only [State.beginLiteral_ip, State.beginLiteral_n]; omega)
      (fun j hj => by
        rw [List.getElem?_take_of_lt (hlen ▸ hj)]
        exact h.input j (by omega))
      (by rw [hlen]; exact State.fits_iff.mpr hfit)
    exact Leads.of_run hrun (.now { hat.afterLiteral with st := rfl, dialect := hd })

/-! ### Backreferences -/

/-- One more byte of output. -/
theorem State.At.append (h : s.At c rest out) (v : Byte) :
    (s.grown (s.outMem.write s.olen v)).At c rest (out ++ [v]) where
  cfg := h.cfg
  input := h.input
  ends := h.ends
  length := by rw [List.length_append, h.length]; rfl
  output := by
    intro a ha
    simp only [State.grown_olen, State.grown_outMem, Memory.read_write] at ha ⊢
    split
    · next heq => rw [heq, ← h.length, List.getElem?_concat_length]
    · next hne => rw [h.output a (by omega), List.getElem?_append_left (by have := h.length; omega)]

/-- The copy phase is the copy loop of the reference function (42_copy R92). -/
theorem State.At.leads_copy (h : s.At c rest out) (hst : s.st = .copy) (hd : s.dialect = d)
    (hrem : s.cpyRem = l + 1) (hsrc : s.src < s.olen) (hfit : s.Fits (l + 1)) :
    ∃ out', refCopy out s.src (l + 1) = some out' ∧ Leads s (State.AtControl c d rest out') := by
  induction l generalizing s out with
  | zero =>
    obtain ⟨v, hv, hread⟩ := h.output_byte hsrc
    have hstep := step_copy hst (by omega) hsrc hread (hfit.mono (by omega))
    refine ⟨out ++ [v], by simp [refCopy, hv], .of_step hstep (.now { h.append v with st := ?_, dialect := hd })⟩
    simp [hrem]
  | succ l ih =>
    obtain ⟨v, hv, hread⟩ := h.output_byte hsrc
    have hstep := step_copy hst (by omega) hsrc hread (hfit.mono (by omega))
    have hfits : s.cfg.exceeds (s.olen + 1 + (l + 1)) = false := by
      rw [Nat.add_assoc, Nat.add_comm 1]
      exact State.fits_iff.mp hfit
    rw [hrem, if_neg (by omega)] at hstep
    obtain ⟨out', hcopy, hleads⟩ := ih (out := out ++ [v])
      (s := { s with outMem := s.outMem.write s.olen v, olen := s.olen + 1, src := s.src + 1,
                     cpyRem := l + 1 + 1 - 1, st := .copy })
      { h.append v with } rfl hd rfl (Nat.succ_lt_succ hsrc) (State.fits_iff.mpr hfits)
    exact ⟨out', by rw [refCopy, hv]; exact hcopy, .of_step hstep hleads⟩

/-- `validate` and the copy phase are the two checks and the copy of the reference function (R88 to R90): no
length that fits has saturated, and one that does not fit overflows saturated or not (decision D12). -/
theorem State.At.yields_validate (h : s.At c rest out) (hlegal : c.legal = true) (hd : s.dialect = d)
    (hlen : s.len = c.saturate l) (hl : 1 ≤ l) (hdist : finalOffset s.ofs = dist) :
    ∃ x, refAppend c.outMax l dist out = some x ∧
      Yields (validate s) x fun out' => State.AtControl c d rest out' := by
  have hlegal' : s.cfg.legal = true := h.cfg ▸ hlegal
  have hlen' : s.len = s.cfg.saturate l := h.cfg ▸ hlen
  have hcap : s.cfg.exceeds (s.olen + s.len) = capacityExceeded c.outMax (out.length + l) := by
    rw [hlen', Config.exceeds_saturate _ _ hlegal', h.exceeds]
  rcases validate_cases s with ⟨hofs, hs⟩ | ⟨hofs, hfit, hs⟩ | ⟨hofs, hfit, hs⟩ <;>
    rw [hdist, ← h.length] at hofs <;> rw [hs]
  · rw [refAppend, if_pos hofs]
    exact ⟨_, rfl, leads_raise s _⟩
  · rw [refAppend, if_neg (Nat.not_lt.mpr hofs), ← hcap, if_pos hfit]
    exact ⟨_, rfl, leads_raise s _⟩
  · rw [refAppend, if_neg (Nat.not_lt.mpr hofs), ← hcap, if_neg (by simp [hfit]), hdist, h.length]
    have hexact : s.len = l := hlen'.trans (Config.saturate_of_fits hlegal' (hlen' ▸ hfit))
    have hpos : 1 ≤ dist := hdist ▸ Nat.le_add_left 1 _
    obtain ⟨k, rfl⟩ : ∃ k, l = k + 1 := ⟨l - 1, by omega⟩
    obtain ⟨out', hcopy, hleads⟩ := State.At.leads_copy (s := s.beginCopy dist) (c := c) (rest := rest) (out := out)
      { h with } rfl hd hexact (Nat.sub_lt_of_pos_le hpos (h.length ▸ hofs)) (State.fits_iff.mpr (hexact ▸ hfit))
    exact ⟨.ok out', by rw [show s.olen - dist = (s.beginCopy dist).src from rfl, hcopy]; rfl, hleads⟩

/-- The extension bytes are the loop that adds them up (R81 to R83). -/
theorem State.InBackref.yields_chain (h : s.InBackref c d p l rest out) (hst : s.st = .lext) :
    Yields s (refChain d rest l) fun x t => t.st = .ofs ∧ t.InBackref c d p x.1 x.2 out := by
  induction rest generalizing s l with
  | nil => exact leads_truncated (.inr (.inl hst)) h.ends
  | cons e rest ih =>
    have hnext : ∀ f, (extendStep e f s).InBackref c d p (l + e.toNat) rest out := fun f =>
      { h.toAt.advance with
        dialect := h.dialect
        prm := h.prm
        len := by
          rw [← Config.saturate_saturate_add, ← h.len, ← h.cfg]
          rfl
        pos := Nat.le_add_right_of_le h.pos }
    have hstep := h.step_byte (ctx := .lengthExt s.dialect) (by rw [State.context, hst])
    rw [exec_lengthExt, h.dialect] at hstep
    rw [refChain]
    split_ifs at hstep ⊢ with hend
    · exact .of_step hstep (Leads.now ⟨rfl, hnext .ofs⟩)
    · exact .of_step hstep (ih (hnext .lext) rfl)

/-- The control byte of a backreference and its extension bytes are the copy length (R78, R80 to R83). -/
theorem State.AtControl.yields_length {b : Byte} (h : s.AtControl c d (b :: rest) out) (cls : BitVec 3)
    (p : BitVec 5) :
    Yields (brefStep cls p s) (refLength d cls rest) fun x t => t.st = .ofs ∧ t.InBackref c d p x.1 x.2 out := by
  have hnext : (brefStep cls p s).InBackref c d p (cls.toNat + 2) rest out :=
    { h.toAt.advance with
      dialect := h.dialect
      prm := rfl
      len := by rw [← h.cfg]; rfl
      pos := Nat.le_add_left 1 _ }
  rw [refLength]
  split_ifs with h7
  · exact hnext.yields_chain (if_pos h7)
  · exact Leads.now ⟨if_neg h7, hnext⟩

/-- The byte that completes the offset `v`. -/
theorem State.InBackref.validates {b : Byte} (h : s.InBackref c d p l (b :: rest) out) (hlegal : c.legal = true)
    {v : BitVec 17} (hdist : finalOffset v = dist) :
    ∃ x, refAppend c.outMax l dist out = some x ∧
      Yields (validate (s.advance.setOfs v)) x fun out' => State.AtControl c d rest out' :=
  State.At.yields_validate (s := s.advance.setOfs v) { h.toAt.advance with } hlegal h.dialect h.len h.pos hdist

/-- The two bytes of a far extension, after the trigger (R86). -/
def refFar : List Byte → Except ErrKind (Nat × List Byte)
  | xh :: xl :: left => .ok (0x1FFF + (xh.toNat * 256 + xl.toNat) + 1, left)
  | [] | [_] => .error .truncatedInput

theorem refOffset_far {lo : Byte} (h : isFarTrigger d p lo = true) (rest : List Byte) :
    refOffset d p (lo :: rest) = refFar rest :=
  (if_pos (isFarTrigger_iff_offset.mp h)).trans (by unfold refFar; rfl)

theorem refOffset_near {lo : Byte} (h : ¬isFarTrigger d p lo = true) (rest : List Byte) :
    refOffset d p (lo :: rest) = .ok (p.toNat * 256 + lo.toNat + 1, rest) :=
  if_neg (isFarTrigger_iff_offset.not.mp h)

/-- The far extension completes the distance, and the copy follows (R86 to R90). -/
theorem State.InBackref.yields_far (h : s.InBackref c d p l rest out) (hst : s.st = .xhi)
    (hofs : s.ofs = 0x1FFF#17) (hlegal : c.legal = true) :
    Yields s (refFar rest) fun x t => ∃ y, refAppend c.outMax l x.1 out = some y ∧
      Yields t y fun out' => State.AtControl c d x.2 out' := by
  match rest with
  | [] => exact leads_truncated (.inr (.inr (.inr (.inl hst)))) h.ends
  | xh :: rest =>
    have hstep : step s = .next (farHigh xh s) := h.step_byte (ctx := .farHigh) (by rw [State.context, hst])
    have hlow : (farHigh xh s).InBackref c d p l rest out :=
      { h.toAt.advance with dialect := h.dialect, prm := h.prm, len := h.len, pos := h.pos }
    match rest with
    | [] => exact .of_step hstep (leads_truncated (s := farHigh xh s) (by simp [farHigh]) hlow.ends)
    | xl :: left =>
      have hstep' : step (farHigh xh s) = .next (farLow xl (farHigh xh s)) := hlow.step_byte (ctx := .farLow) rfl
      have hdist : finalOffset (s.ofs + farExtension xh xl) = 0x1FFF + (xh.toNat * 256 + xl.toNat) + 1 := by
        rw [hofs, finalOffset_far]
      exact .of_step hstep (.of_step hstep' (Leads.now (hlow.validates hlegal hdist)))

/-- The offset bytes are the distance, in the near form or the far one, and the copy follows (R84 to R90). -/
theorem State.InBackref.yields_offset (h : s.InBackref c d p l rest out) (hst : s.st = .ofs)
    (hlegal : c.legal = true) :
    Yields s (refOffset d p rest) fun x t => ∃ y, refAppend c.outMax l x.1 out = some y ∧
      Yields t y fun out' => State.AtControl c d x.2 out' := by
  match rest with
  | [] => exact leads_truncated (.inr (.inr (.inl hst))) h.ends
  | lo :: rest =>
    have hstep := h.step_byte (ctx := .offset s.dialect s.prm) (by rw [State.context, hst])
    rw [exec_offset, h.dialect, h.prm] at hstep
    by_cases hfar : isFarTrigger d p lo = true
    · obtain ⟨-, rfl, -⟩ := isFarTrigger_iff.mp hfar
      rw [if_pos hfar] at hstep
      rw [refOffset_far hfar]
      have hofs : rawOffset s.prm 0xFF#8 = 0x1FFF#17 := by rw [h.prm]; decide
      exact .of_step hstep (State.InBackref.yields_far (s := farTrigger s)
        { h.toAt.advance with dialect := h.dialect, prm := h.prm, len := h.len, pos := h.pos } rfl hofs hlegal)
    · rw [if_neg hfar] at hstep
      rw [refOffset_near hfar]
      exact .of_step hstep (Leads.now (h.validates hlegal (finalOffset_rawOffset p lo)))

/-! ### Segments -/

/-- A whole backreference after its control byte (R102). -/
theorem State.AtControl.yields_backref {b : Byte} (h : s.AtControl c d (b :: rest) out) (hlegal : c.legal = true)
    (cls : BitVec 3) (p : BitVec 5) :
    ∃ x, refBackref c.outMax d cls p rest out = some x ∧
      Yields (brefStep cls p s) x fun y => State.AtControl c d y.1 y.2 := by
  have hlength := h.yields_length cls p
  rw [refBackref]
  match refLength d cls rest, hlength with
  | .error e, hends => exact ⟨.error e, rfl, hends⟩
  | .ok (l, rest1), ⟨j, u, hj, hst, (hu : u.InBackref c d p l rest1 out)⟩ =>
    have hoffset : Yields (brefStep cls p s) (refOffset d p rest1) _ := (hu.yields_offset hst hlegal).of_run hj
    dsimp only
    match refOffset d p rest1, hoffset with
    | .error e, hends => exact ⟨.error e, rfl, hends⟩
    | .ok (dist, rest2), ⟨k, v, hk, y, (happend : refAppend c.outMax l dist out = some y), hyields⟩ =>
      simp only [happend]
      match y, hyields with
      | .error e, hends => exact ⟨.error e, rfl, Leads.of_run hk hends⟩
      | .ok out1, hleads => exact ⟨.ok (rest2, out1), rfl, Leads.of_run hk hleads⟩

/-- The control byte and the segment that it starts: the step of the byte leads to a state `t` after it, and the
run from `t` gives the segment's bytes left and output, or its error. -/
theorem State.AtControl.yields_segment {b : Byte} (h : s.AtControl c d (b :: rest) out) (hlegal : c.legal = true) :
    ∃ t x, step s = .next t ∧ t.At c rest out ∧ refSegment c.outMax d b rest out = some x ∧
      Yields t x fun y => State.AtControl c d y.1 y.2 := by
  have hstep := h.step_byte (ctx := .control s.dialect) (by rw [State.context, h.st])
  have hat : ∀ t, exec (decodeByte (.control s.dialect) b) s = .next t → t.At c rest out := fun t ht =>
    h.toAt.advance.keepsBuffers (ByteStep.of_exec (by rw [State.context, h.st]) ht).keepsBuffers
  rw [exec_control] at hstep hat
  rw [refSegment]
  split_ifs at hstep hat ⊢ with h0
  · have hyields := State.At.yields_literal (s := s.advance.latchControl 0#3 (paramField b)) { h.toAt.advance with }
      h.dialect (paramField b)
    exact ⟨_, _, hstep, hat _ rfl, rfl, hyields⟩
  · obtain ⟨x, hx, hyields⟩ := h.yields_backref hlegal (classField b) (paramField b)
    exact ⟨_, x, hstep, hat _ rfl, hx, hyields⟩

/-! ### The whole block -/

/-- A run reads no byte twice, so what is left gets no longer. -/
theorem State.At.length_rest_le {k : Nat} {rest' out' : List Byte} (h : s.At c rest out)
    (h' : t.At c rest' out') (hr : run k s = .next t) : rest'.length ≤ rest.length := by
  obtain ⟨hip, hn⟩ : s.ip ≤ t.ip ∧ t.n = s.n :=
    run_keeps (P := fun u => s.ip ≤ u.ip ∧ u.n = s.n) (fun u v hu hv =>
      ⟨hu.1.trans (step_counts hv).1, (step_counts hv).2.2.trans hu.2⟩) ⟨le_rfl, rfl⟩ hr
  have hends := h.ends
  have hends' := h'.ends
  omega

/-- From a control boundary the engine computes the loop of the reference function, which a fuel of more than the
bytes left never runs out of. -/
theorem State.AtControl.leads_loop (hlegal : c.legal = true) {fuel : Nat} (h : s.AtControl c d rest out)
    (hfuel : rest.length < fuel) :
    ∃ r, refLoop c.outMax d fuel rest out = some r ∧ Leads s (EndsAs r) := by
  induction fuel generalizing s rest out with
  | zero => exact absurd hfuel (Nat.not_lt_zero _)
  | succ fuel ih =>
    match rest with
    | [] => exact ⟨_, rfl, h.leads_done⟩
    | b :: rest =>
      obtain ⟨t, x, hstep, hat, hx, hyields⟩ := h.yields_segment hlegal
      rw [refLoop, hx]
      match x with
      | .error e => exact ⟨_, rfl, .of_step hstep hyields⟩
      | .ok (rest', out') =>
        obtain ⟨k, u, hr, hu⟩ := hyields
        have hle := hat.length_rest_le hu.toAt hr
        rw [List.length_cons] at hfuel
        obtain ⟨r, hloop, hleads⟩ := ih hu (by omega)
        exact ⟨r, hloop, .of_step hstep (hleads.of_run hr)⟩

/-- After Start the whole block is to be read and nothing is written (R106). -/
theorem State.at_load (s : State) (blk : List Byte) : (s.load blk).At s.cfg blk [] where
  cfg := rfl
  input := fun j hj => by
    rw [State.load_inMem, State.load_ip, Nat.zero_add, Memory.read_writeFrom_zero _ _ hj]
  ends := Nat.zero_add _
  length := rfl
  output := nofun

theorem exec_header_of_some {b : Byte} (h : dialectOfTag (classField b) = some d) :
    exec (decodeByte .header b) s = .next (headerStep d (paramField b) s) := by
  rw [exec_header]
  unfold dialectOfTag at h
  split_ifs at h ⊢ <;> cases h <;> rfl

theorem exec_header_of_none {b : Byte} (h : dialectOfTag (classField b) = none) :
    exec (decodeByte .header b) s = .next (headerInvalid s) := by
  rw [exec_header]
  unfold dialectOfTag at h
  split_ifs at h ⊢
  rfl

/-- From the header state the engine computes the reference function (R102, R103). -/
theorem State.At.leads_decompress {blk : List Byte} (h : s.At c blk []) (hst : s.st = .hdr)
    (hlegal : c.legal = true) : ∃ r, decompress c.outMax blk = some r ∧ Leads s (EndsAs r) := by
  match blk with
  | [] => exact ⟨_, rfl, leads_truncated (.inl hst) h.ends⟩
  | b :: rest =>
    have hstep := h.step_byte (ctx := .header) (by rw [State.context, hst])
    rw [decompress]
    cases hd : dialectOfTag (classField b) with
    | none =>
      rw [exec_header_of_none hd] at hstep
      exact ⟨_, rfl, .of_step hstep (leads_raise s.advance _)⟩
    | some d =>
      rw [exec_header_of_some hd] at hstep
      have hliteral := (State.At.yields_literal (s := s.advance.latchHeader d (paramField b))
        { h.advance with } rfl (paramField b)).of_step hstep
      match refLiteral c.outMax ((paramField b).toNat + 1) rest [], hliteral with
      | .error e, hends => exact ⟨_, rfl, hends⟩
      | .ok (rest', out'), ⟨k, t, hr, ht⟩ =>
        obtain ⟨r, hloop, hleads⟩ := ht.leads_loop hlegal (Nat.lt_succ_self _)
        exact ⟨r, hloop, hleads.of_run hr⟩

end

end Sys2Proof.Machine

section

open Sys2Proof Sys2Proof.Machine

/-- Settles O51: from Start the engine runs to the outcome of the reference function
(`State.At.leads_decompress`), and a run has one terminal state only. -/
theorem engineComputesTheReferenceFunction : Obligations.EngineComputesTheReferenceFunction := by
  intro s s1 blk hlegal hs
  obtain rfl := State.start_eq_load hs
  obtain ⟨r, hr, k, t, hrun, hterm, hout⟩ := (s.at_load blk).leads_decompress rfl hlegal
  refine ⟨⟨k, t, hrun, hterm⟩, fun j u hu hu' => ?_⟩
  obtain rfl := run_terminal_unique hrun hu hterm hu'
  exact ⟨hout.trans hr.symm, hout ▸ rfl⟩

end

/-! SUPPORT. Error entry (60_exceptions R115 to R121): the kinds that each operation raises, and from them the
points of the FSM at which a step raises each kind. -/

namespace Sys2Proof

/-- Only a finite capacity is exceeded (00_scope R1). -/
theorem Config.exceeds_iff {c : Config} {k : Nat} : c.exceeds k = true ↔ ∃ m, c.outMax = some m ∧ m < k := by
  unfold Config.exceeds capacityExceeded
  cases c.outMax <;> simp

namespace Machine

/-! ### What the operations raise -/

/-- Error entry has been made with this kind (60_exceptions R120). -/
def State.Raised (s : State) (k : ErrKind) : Prop := s.st = .err ∧ s.err = k.code

/-- The kinds that literal setup raises: truncation is tested before capacity (R117, R119, R123). -/
def LiteralRaises (s : State) (p : BitVec 5) : ErrKind → Prop
  | .truncatedInput => s.n - s.ip < literalLength p
  | .outputOverflow => literalLength p ≤ s.n - s.ip ∧ s.cfg.exceeds (s.olen + literalLength p) = true
  | .unsupportedDialect | .invalidOffset => False

/-- The kinds that `validate` raises for the raw offset `v`: the offset is tested before capacity (R118, R119,
R123). -/
def OffsetRaises (s : State) (v : BitVec 17) : ErrKind → Prop
  | .invalidOffset => s.olen < finalOffset v
  | .outputOverflow => finalOffset v ≤ s.olen ∧ s.cfg.exceeds (s.olen + s.len) = true
  | .unsupportedDialect | .truncatedInput => False

section

variable {s t : State} {k : ErrKind}

theorem State.not_raised (h : s.st ≠ .err) : ¬ s.Raised k := fun hr => h hr.1

theorem ErrKind.code_inj {j k : ErrKind} : j.code = k.code ↔ j = k :=
  ⟨fun h => by simpa using congrArg ErrKind.ofCode h, congrArg ErrKind.code⟩

@[simp] theorem State.raised_raise {j : ErrKind} : (s.raise j).Raised k ↔ k = j := by
  simp [State.Raised, ErrKind.code_inj, eq_comm]

theorem litSetup_raised_iff {p : BitVec 5} : (litSetup p s).Raised k ↔ LiteralRaises s p k := by
  rcases litSetup_cases p s with ⟨hin, h⟩ | ⟨hin, hfit, h⟩ | ⟨hin, hfit, h⟩ <;> rw [h]
  · cases k <;> simp [LiteralRaises, hin]
  · cases k <;> simp [LiteralRaises, hin, hfit]
  · cases k <;> simp [LiteralRaises, State.Raised, hin, hfit]

theorem validate_raised_iff : (validate s).Raised k ↔ OffsetRaises s s.ofs k := by
  rcases validate_cases s with ⟨hofs, h⟩ | ⟨hofs, hfit, h⟩ | ⟨hofs, hfit, h⟩ <;> rw [h]
  · cases k <;> simp [OffsetRaises, hofs]
  · cases k <;> simp [OffsetRaises, hofs, hfit]
  · cases k <;> simp [OffsetRaises, State.Raised, hofs, hfit]

@[simp] theorem literalRaises_latchHeader {d : Dialect} {p q : BitVec 5} :
    LiteralRaises (s.latchHeader d q) p k ↔ LiteralRaises s p k := by cases k <;> rfl

@[simp] theorem literalRaises_latchControl {c : BitVec 3} {p q : BitVec 5} :
    LiteralRaises (s.latchControl c q) p k ↔ LiteralRaises s p k := by cases k <;> rfl

@[simp] theorem offsetRaises_setOfs {v w : BitVec 17} :
    OffsetRaises (s.advance.setOfs w) v k ↔ OffsetRaises s v k := by cases k <;> rfl

/-! ### The points at which a step raises -/

/-- The end of the input raises this kind: inside a segment, never at a control boundary (R117). -/
def EndRaises (s : State) (k : ErrKind) : Prop :=
  (s.st = .hdr ∨ s.st = .lext ∨ s.st = .ofs ∨ s.st = .xhi ∨ s.st = .xlo) ∧ k = .truncatedInput

/-- The byte `b` starts a literal segment: a supported header byte or a control byte of class 0. -/
def BeginsLiteral (s : State) (b : Byte) : Prop :=
  s.st = .hdr ∧ (classField b).toNat ≤ 1 ∨ s.st = .ctrl ∧ (classField b).toNat = 0

/-- Reading the byte `b` raises this kind: the header's tag is unsupported, or literal setup or the validation of
a complete offset raises it. -/
def ByteRaises (s : State) (b : Byte) (k : ErrKind) : Prop :=
  s.st = .hdr ∧ 2 ≤ (classField b).toNat ∧ k = .unsupportedDialect ∨
  BeginsLiteral s b ∧ LiteralRaises s.advance (paramField b) k ∨
  s.st = .ofs ∧ ¬ isFarTrigger s.dialect s.prm b = true ∧ OffsetRaises s (rawOffset s.prm b) k ∨
  s.st = .xlo ∧ OffsetRaises s (s.ofs + farExtension s.xhi b) k

/-- The next step of the engine is one that raises this kind. -/
def RaisesNext (s : State) (k : ErrKind) : Prop :=
  s.ip = s.n ∧ EndRaises s k ∨ s.ip ≠ s.n ∧ ∃ b, s.inMem.read s.ip = some b ∧ ByteRaises s b k

theorem endOfInput_raised_iff (hs : s.st ≠ .err) : (endOfInput s).Raised k ↔ EndRaises s k := by
  cases hst : s.st
  case hdr | lext | ofs | xhi | xlo => simp [endOfInput, EndRaises, hst]
  case ctrl | idle | lit | copy | done => simp [endOfInput, EndRaises, State.Raised, hst]
  case err => exact absurd hst hs

/-- A tag other than 0 and 1 is an unsupported one (30_encoding R63). -/
theorem two_le_tag : ∀ {c : BitVec 3}, c ≠ 0#3 → c ≠ 1#3 → 2 ≤ c.toNat := by decide

/-- The meaning of a byte in the state's own context raises at the points of `ByteRaises`. -/
theorem exec_raised_iff {c : Context} {b : Byte} (hc : s.context = some c)
    (h : exec (decodeByte c b) s = .next t) : t.Raised k ↔ ByteRaises s b k := by
  cases hst : s.st <;> simp only [State.context, hst, Option.some.injEq, reduceCtorEq] at hc <;> subst hc
  case hdr =>
    rw [exec_header] at h
    cases h
    split_ifs with h0 h1
    · exact litSetup_raised_iff.trans (by simp [ByteRaises, BeginsLiteral, hst, h0])
    · exact litSetup_raised_iff.trans (by simp [ByteRaises, BeginsLiteral, hst, h1])
    · have htag := two_le_tag h0 h1
      have hlit : ¬(classField b).toNat ≤ 1 := by omega
      simp [headerInvalid, ByteRaises, BeginsLiteral, hst, htag, hlit]
  case ctrl =>
    rw [exec_control] at h
    cases h
    split_ifs with h0
    · exact litSetup_raised_iff.trans (by simp [ByteRaises, BeginsLiteral, hst, h0])
    · have hclass : (classField b).toNat ≠ 0 := fun hz => h0 (BitVec.eq_of_toNat_eq hz)
      have hnext : (brefStep (classField b) (paramField b) s).st ≠ .err := by
        by_cases h7 : classField b = 7#3 <;> simp [brefStep, h7]
      simp [ByteRaises, BeginsLiteral, hst, hclass, State.not_raised hnext]
  case lext =>
    rw [exec_lengthExt] at h
    cases h
    have hnext : (extendStep b (if s.dialect = .typeZero ∨ b ≠ 0xFF#8 then .ofs else .lext) s).st ≠ .err := by
      rw [extendStep, State.goto_st]
      split_ifs <;> nofun
    simp [ByteRaises, BeginsLiteral, hst, State.not_raised hnext]
  case ofs =>
    rw [exec_offset] at h
    cases h
    split_ifs with hfar
    · have hnext : (farTrigger s).st ≠ .err := nofun
      simp [ByteRaises, BeginsLiteral, hst, hfar, State.not_raised hnext]
    · exact validate_raised_iff.trans (by simp [ByteRaises, BeginsLiteral, hst, hfar])
  case xhi =>
    cases h
    have hnext : (farHigh b s).st ≠ .err := nofun
    simp [ByteRaises, BeginsLiteral, hst, State.not_raised hnext]
  case xlo =>
    cases h
    exact validate_raised_iff.trans (by simp [ByteRaises, BeginsLiteral, hst])

/-- A step that raises reads a byte of the command stream, or finds none where one is due. -/
theorem RaisesNext.context_ne_none (h : RaisesNext s k) : s.context ≠ none := by
  rcases h with ⟨-, hst, -⟩ | ⟨-, b, -, ⟨hst, -, -⟩ | ⟨⟨hst, -⟩ | ⟨hst, -⟩, -⟩ | ⟨hst, -, -⟩ | ⟨hst, -⟩⟩
  · rcases hst with hst | hst | hst | hst | hst <;> simp [State.context, hst]
  all_goals simp [State.context, hst]

/-- A step raises a kind exactly at the points of `RaisesNext`. -/
theorem step_raised_iff (hs : s.st ≠ .err) (h : step s = .next t) : t.Raised k ↔ RaisesNext s k := by
  have hquiet : s.context = none → t.st ≠ .err → (t.Raised k ↔ RaisesNext s k) := fun hc ht =>
    iff_of_false (State.not_raised ht) fun hr => hr.context_ne_none hc
  rcases step_cases h with ⟨hst, rfl⟩ | ⟨hst, h⟩ | ⟨hst, h⟩ | ⟨c, -, he, rfl⟩ | ⟨c, b, hc, he, hr, h⟩
  · refine hquiet ?_ hs
    rcases hst with hst | hst | hst <;> simp [State.context, hst]
  · exact hquiet (by simp [State.context, hst]) (by rcases literalStep_st hst h with ht | ht <;> simp [ht])
  · exact hquiet (by simp [State.context, hst]) (by rcases copyStep_st hst h with ht | ht <;> simp [ht])
  · simp [RaisesNext, he, endOfInput_raised_iff hs]
  · obtain ⟨-, hread⟩ := State.inRead_ok_iff.mp hr
    simp [RaisesNext, he, hread, exec_raised_iff hc h]

/-! ### The points of each kind -/

theorem raisesNext_truncatedInput :
    RaisesNext s .truncatedInput ↔
      (s.st = .hdr ∨ s.st = .lext ∨ s.st = .ofs ∨ s.st = .xhi ∨ s.st = .xlo) ∧ s.ip = s.n ∨
      s.ip ≠ s.n ∧ ∃ b, s.inMem.read s.ip = some b ∧
        BeginsLiteral s b ∧ s.n - (s.ip + 1) < literalLength (paramField b) := by
  simp [RaisesNext, EndRaises, ByteRaises, LiteralRaises, OffsetRaises, and_comm (a := s.ip = s.n)]

theorem raisesNext_unsupportedDialect :
    RaisesNext s .unsupportedDialect ↔
      s.st = .hdr ∧ s.ip ≠ s.n ∧ ∃ b, s.inMem.read s.ip = some b ∧ 2 ≤ (classField b).toNat := by
  simp [RaisesNext, EndRaises, ByteRaises, LiteralRaises, OffsetRaises, and_left_comm (b := s.st = .hdr)]

theorem raisesNext_invalidOffset :
    RaisesNext s .invalidOffset ↔
      s.ip ≠ s.n ∧ ∃ b, s.inMem.read s.ip = some b ∧
        (s.st = .ofs ∧ ¬ isFarTrigger s.dialect s.prm b = true ∧ s.olen < finalOffset (rawOffset s.prm b) ∨
         s.st = .xlo ∧ s.olen < finalOffset (s.ofs + farExtension s.xhi b)) := by
  simp [RaisesNext, EndRaises, ByteRaises, LiteralRaises, OffsetRaises]

theorem raisesNext_outputOverflow :
    RaisesNext s .outputOverflow ↔
      s.ip ≠ s.n ∧ ∃ b m, s.inMem.read s.ip = some b ∧ s.cfg.outMax = some m ∧
        (BeginsLiteral s b ∧ literalLength (paramField b) ≤ s.n - (s.ip + 1) ∧
            m < s.olen + literalLength (paramField b) ∨
         s.st = .ofs ∧ ¬ isFarTrigger s.dialect s.prm b = true ∧ finalOffset (rawOffset s.prm b) ≤ s.olen ∧
            m < s.olen + s.len ∨
         s.st = .xlo ∧ finalOffset (s.ofs + farExtension s.xhi b) ≤ s.olen ∧ m < s.olen + s.len) := by
  cases hcap : s.cfg.outMax <;>
    simp [RaisesNext, EndRaises, ByteRaises, LiteralRaises, OffsetRaises, Config.exceeds_iff, hcap]

/-! ### Every error entry is of one of the four kinds -/

theorem litSetup_raised_of_err {p : BitVec 5} (h : (litSetup p s).st = .err) : ∃ k, (litSetup p s).Raised k := by
  rcases litSetup_cases p s with ⟨-, hs⟩ | ⟨-, -, hs⟩ | ⟨-, -, hs⟩ <;> rw [hs] at h ⊢
  · exact ⟨_, State.raised_raise.mpr rfl⟩
  · exact ⟨_, State.raised_raise.mpr rfl⟩
  · cases h

theorem validate_raised_of_err (h : (validate s).st = .err) : ∃ k, (validate s).Raised k := by
  rcases validate_cases s with ⟨-, hs⟩ | ⟨-, -, hs⟩ | ⟨-, -, hs⟩ <;> rw [hs] at h ⊢
  · exact ⟨_, State.raised_raise.mpr rfl⟩
  · exact ⟨_, State.raised_raise.mpr rfl⟩
  · cases h

theorem endOfInput_raised_of_err (hs : s.st ≠ .err) (h : (endOfInput s).st = .err) :
    ∃ k, (endOfInput s).Raised k := by
  cases hst : s.st <;> simp only [endOfInput, hst, reduceCtorEq, State.goto_st] at h ⊢
  case hdr | lext | ofs | xhi | xlo => exact ⟨_, State.raised_raise.mpr rfl⟩
  case err => exact absurd hst hs

theorem ByteStep.raised_of_err (h : ByteStep s t) (ht : t.st = .err) : ∃ k, t.Raised k := by
  cases h with
  | header | literal => exact litSetup_raised_of_err ht
  | near | extLow => exact validate_raised_of_err ht
  | invalid => exact ⟨_, State.raised_raise.mpr rfl⟩
  | backref hst c p hc => by_cases h7 : c = 7#3 <;> simp [brefStep, h7] at ht
  | extend hst e f hf => rcases hf with rfl | rfl <;> cases ht
  | trigger | extHigh => cases ht

/-- The step that enters `S_ERR` keeps the output and raises one of the four kinds (R120, R121). -/
theorem step_enters_err (hs : s.st ≠ .err) (h : step s = .next t) (ht : t.st = .err) :
    t.olen = s.olen ∧ t.outMem = s.outMem ∧ ∃ k, t.Raised k := by
  rcases step_cases h with ⟨-, rfl⟩ | ⟨hst, h⟩ | ⟨hst, h⟩ | ⟨c, -, -, rfl⟩ | ⟨c, b, hc, -, -, h⟩
  · exact absurd ht hs
  · rcases literalStep_st hst h with hst' | hst' <;> cases hst'.symm.trans ht
  · rcases copyStep_st hst h with hst' | hst' <;> cases hst'.symm.trans ht
  · have hk := keepsBuffers_endOfInput s
    exact ⟨hk.olen, hk.outMem, endOfInput_raised_of_err hs ht⟩
  · have hbyte := ByteStep.of_exec hc h
    exact ⟨hbyte.keepsBuffers.olen, hbyte.keepsBuffers.outMem, hbyte.raised_of_err ht⟩

end

end Machine

end Sys2Proof

section

open Sys2Proof Sys2Proof.Machine

/-- Settles O14: the raises of a step (`step_raised_iff`) that are of this kind are the header byte's. -/
theorem unsupportedDialectExactly : Obligations.UnsupportedDialectExactly := by
  intro s t hs h
  exact (step_raised_iff hs h).trans raisesNext_unsupportedDialect

/-- Settles O15: the raises of a step (`step_raised_iff`) that are of this kind are those of the end of the input
inside a segment and of literal setup. -/
theorem truncatedInputExactly : Obligations.TruncatedInputExactly := by
  intro s t hs h
  exact (step_raised_iff hs h).trans raisesNext_truncatedInput

/-- Settles O16: the raises of a step (`step_raised_iff`) that are of this kind are those of `validate`, with the
near offset as a number. -/
theorem invalidOffsetExactly : Obligations.InvalidOffsetExactly := by
  intro s t hs h
  have hraised := (step_raised_iff hs h).trans raisesNext_invalidOffset
  simp only [isFarTrigger_iff, finalOffset_rawOffset] at hraised
  exact hraised

/-- Settles O17: the raises of a step (`step_raised_iff`) that are of this kind are the capacity tests of literal
setup and of `validate`, with the near offset as a number. -/
theorem outputOverflowExactly : Obligations.OutputOverflowExactly := by
  intro s t hs h
  have hraised := (step_raised_iff hs h).trans raisesNext_outputOverflow
  simp only [isFarTrigger_iff, finalOffset_rawOffset] at hraised
  exact hraised

/-- Settles O37: `step_enters_err`, with the code of each kind. -/
theorem errorEntryWritesNoOutput : Obligations.ErrorEntryWritesNoOutput := by
  intro s t hs h ht
  obtain ⟨holen, hout, k, -, hk⟩ := step_enters_err hs h ht
  refine ⟨holen, hout, ?_⟩
  rw [hk]
  cases k <;> decide

end

/-! SUPPORT. Several engines (60_exceptions R131): a move on one of them reads and writes that one alone. -/

namespace Sys2Proof.Machine

section

variable {sys x z : System} {j k : Nat} {m m' : Move}

/-- A move on engine `k` is a move of that engine's state, put back in its place. -/
theorem System.move_eq_some_iff :
    sys.move k m = some x ↔ ∃ s t, sys[k]? = some s ∧ s.move m = some t ∧ x = sys.set k t := by
  unfold System.move
  cases sys[k]? <;> simp [eq_comm]

/-- Two moves on different engines, made in the other order, come to the same. -/
theorem System.move_swap (hjk : j ≠ k) (hj : sys.move j m = some x) (hk : x.move k m' = some z) :
    ∃ y, sys.move k m' = some y ∧ y.move j m = some z := by
  obtain ⟨s, t, hs, ht, rfl⟩ := System.move_eq_some_iff.mp hj
  obtain ⟨s', t', hs', ht', rfl⟩ := System.move_eq_some_iff.mp hk
  rw [List.getElem?_set_ne hjk] at hs'
  refine ⟨_, System.move_eq_some_iff.mpr ⟨s', t', hs', ht', rfl⟩, System.move_eq_some_iff.mpr ⟨s, t, ?_, ht, ?_⟩⟩
  · rw [List.getElem?_set_ne hjk.symm, hs]
  · exact List.set_comm t t' hjk

end

end Sys2Proof.Machine

section

open Sys2Proof Sys2Proof.Machine

/-- Settles O57: a move writes its engine's place in the list alone, and two moves on different places swap
(`System.move_swap`). -/
theorem instancesAreIndependent : Obligations.InstancesAreIndependent := by
  intro sys j k m m' hjk
  refine ⟨fun sys' h => ?_, Option.ext fun z => ?_⟩
  · obtain ⟨s, t, -, -, rfl⟩ := System.move_eq_some_iff.mp h
    exact ⟨List.length_set, List.getElem?_set_ne hjk⟩
  · simp only [Option.bind_eq_some_iff]
    exact ⟨fun ⟨_, hj, hk⟩ => System.move_swap hjk hj hk, fun ⟨_, hk, hj⟩ => System.move_swap hjk.symm hk hj⟩

end

/-! SUPPORT. The host's Reset (43_decode_loop R108, 70_reset R133): the move exists in every state, and what the
spec states of the state it leaves. -/

namespace Sys2Proof.Machine

@[simp] theorem State.move_reset (s : State) : s.move .reset = some s.hostReset := rfl

@[simp] theorem State.hostReset_st (s : State) : s.hostReset.st = .idle := rfl

@[simp] theorem State.hostReset_err (s : State) : s.hostReset.err = 0#3 := rfl

@[simp] theorem State.hostReset_cfg (s : State) : s.hostReset.cfg = s.cfg := rfl

end Sys2Proof.Machine

section

open Sys2Proof Sys2Proof.Machine

/-- Settles O54: what the host reads of the state that Reset leaves follows from its `st`, idle, and its `err`, 0
(10_state R27, 43_decode_loop R110). -/
theorem resetLeavesIdleAndNoError : Obligations.ResetLeavesIdleAndNoError := by
  refine ⟨fun s => ?_, rfl, rfl⟩
  have hst := s.hostReset_st
  have hstatus : s.hostReset.readStatus = 0#2 := (statusIsAFunctionOfTheFsmState s.hostReset).1 hst
  have hout : s.hostReset.outcome = none := State.outcome_eq_none (by simp) (by simp)
  exact ⟨s.hostReset, s.move_reset, hst, s.hostReset_err, hstatus, s.hostReset_err, hout, s.hostReset_cfg⟩

end
